-- ==== Sys2Proof/Word.lean ====
section
/-! DEFINITION. The words of the engine (00_scope.md R10, R14): unsigned integers of 8, 16 and 32 bits, and the
`RGBA8` pixel, the 4-tuple (red, green, blue, alpha). Positions, counts and indexes are natural numbers (R11). -/
namespace Sys2Proof

/-- `u8` (R14). -/
abbrev Byte := BitVec 8

/-- `u16` (R14). -/
abbrev U16 := BitVec 16

/-- `u32` (R14). -/
abbrev U32 := BitVec 32

/-- `RGBA8` (R14): four 8-bit components in this order. -/
structure Rgba8 where
  red   : Byte
  green : Byte
  blue  : Byte
  alpha : Byte
  deriving DecidableEq, Repr, Inhabited

end Sys2Proof
end

