-- ==== Sys2Proof/Config.lean ====
section
/-! DEFINITION. What the spec leaves open to the implementation (00_scope.md R8, 92_eei_decisions.md section 3) and the
free values. Every constant marked `opaque` has no body: nothing can be proved about its value, so every theorem about
the model holds for all of its values. The fixed parameters of R8 are numbers where the rules use them. -/
namespace Sys2Proof.Config

/-- How much wider than 32 bits the physical position register is (assumption 1). -/
opaque posExtra : Nat

/-- `POS_W` (R8, D2): the physical width of `pos`, at least 32. No operation reads it: the rules compute positions
exactly (R11). Its other constraint, `L + 4 < 2^POS_W`, is a launch premise (`Safety.PositionFits`). -/
def posW : Nat := 32 + posExtra

/-- How many palette entries beyond 256 the physical store has (assumption 2). -/
opaque palExtra : Nat

/-- `PAL_CAP` (R8, D7): physical palette entries, at least 256. Read by RDPAL only (R255). -/
def palCap : Nat := 256 + palExtra

/-- `OUT_CAP` (R8, D12): the largest `width*height` the output space holds; `none` is an unbounded output space. -/
opaque outCap : Option Nat

/-- `NARROW8` above 255 (R8, D9): free. -/
opaque narrowAbove : Nat → Byte

/-- `PROF` (R8, D19): whether the result carries the profiling record. -/
opaque profPresent : Bool

/-- The draw `decodeMillis` (R199, D19): free, one value for each draw number. -/
opaque decodeMillis : Nat → Nat

/-- The draw `pixelsPerMillisecond` (R199, D19): free, one value for each draw number. -/
opaque pixelsPerMillisecond : Nat → Nat

/-- What an unwritten 32-bit register (given by its number) holds; free (assumption 4). No operation of a session
reads one (R14). The second argument is the draw number. -/
opaque unwritten : Nat → Nat → U32

/-- What an unwritten entry of the palette store holds; free (assumption 4). Arguments: the index, the draw number. -/
opaque unwrittenPixel : Nat → Nat → Rgba8

/-- The index that UNPACK extracts when fewer bits are left than a pixel takes, which R220 derives never happens;
free (assumption 5). Arguments: bits per pixel, bits remaining, the current byte. -/
opaque underflowIndex : Nat → Nat → Byte → Nat

/-- The bits left after that extraction; free (assumption 5). -/
opaque underflowRemaining : Nat → Nat → Byte → Fin 9

end Sys2Proof.Config
end

