-- ==== Sys2Proof/Syntax.lean ====
section
/-! DEFINITION. The operations of the engine, one constructor for each row of spec/opcode_table.json. Operands are the
natural numbers of the rules; an operand the encoding calls "ignored" (30_encoding.md R105, R107) is no operand. -/
namespace Sys2Proof

/-- The sub-byte depths the bit-unpacker serves (43_pixel_formats.md R220): 1, 2, 4 bits per pixel. -/
inductive SubDepth where
  | d1 | d2 | d4
  deriving DecidableEq, Repr

/-- The pixel formats (30_encoding.md R94 to R98), one for each supported depth (42_pixel_decoder.md R204). -/
inductive PixelFormat where
  | p1 | p2 | p4 | p8 | p16 | p24 | p32
  deriving DecidableEq, Repr

/-- The operations. -/
inductive Instr where
  -- cursor operations (40_cursor.md), format CC
  | rdu8
  | rdu16
  | rdu32
  | rdstr (n : Nat)
  | seek (p : Nat)
  | tell
  | skip (n : Nat)
  -- header steps (41_header_parser.md), format PH
  | hSig
  | hFilesize
  | hReserved
  | hDataoffset
  | hDibsize
  | hWidth
  | hHeight
  | hPlanes
  | hBpp
  | hCompression
  | hDatasize
  | hResh
  | hResv
  | hColors
  | hImpcolors
  | hPalette
  | hMasks
  -- decoder control steps (42_pixel_decoder.md), format PH
  | dChkcomp
  | dChkdepth
  | dSeek
  | dAlloc
  | dRowstart
  | dPixel
  | dRowend
  | dFinish
  -- pixel-format operations (43_pixel_formats.md), selected by the 16 bits of `md.bitsPerPixel`
  | px1
  | px2
  | px4
  | px8
  | px16
  | px24
  | px32
  -- pixel-format sub-operations, without an encoding of their own
  | unpack (d : SubDepth)
  | lookup (index : Nat)
  -- host commands (44_host_interface.md), format HC
  | reset
  | start
  | rdreg (n : Nat)
  | rdpal (i : Nat)
  | rdout (i : Nat)
  -- reserved codes (30_encoding.md R105, R107)
  | reservedCc7
  | reservedHc5
  | reservedHc6
  | reservedHc7
  deriving DecidableEq, Repr

end Sys2Proof
end

