-- ==== Sys2Proof/WellFormed.lean ====
section
/-! DEFINITION. Which operations can be written in the encodings of 30_encoding.md: the argument of a CC or HC command
has 32 bits (R105, R107), and a palette index is the value of at most one byte (R94, R95). -/
namespace Sys2Proof

/-- The value fits the 32-bit `arg` field of formats CC and HC (R105, R107). -/
def argFits (n : Nat) : Bool := decide (n < 2 ^ 32)

/-- Every operand fits its field. -/
def Instr.wellFormed : Instr → Bool
  | .rdstr n => argFits n
  | .seek p => argFits p
  | .skip n => argFits n
  | .rdreg n => argFits n
  | .rdpal i => argFits i
  | .rdout i => argFits i
  | .lookup index => decide (index < 256)
  | .rdu8 | .rdu16 | .rdu32 | .tell => true
  | .hSig | .hFilesize | .hReserved | .hDataoffset | .hDibsize | .hWidth | .hHeight | .hPlanes | .hBpp => true
  | .hCompression | .hDatasize | .hResh | .hResv | .hColors | .hImpcolors | .hPalette | .hMasks => true
  | .dChkcomp | .dChkdepth | .dSeek | .dAlloc | .dRowstart | .dPixel | .dRowend | .dFinish => true
  | .px1 | .px2 | .px4 | .px8 | .px16 | .px24 | .px32 => true
  | .unpack _ | .reset | .start => true
  | .reservedCc7 | .reservedHc5 | .reservedHc6 | .reservedHc7 => true

/-- `i` is well formed. -/
abbrev WellFormed (i : Instr) : Prop := i.wellFormed = true

end Sys2Proof
end

