-- ==== Sys2Proof/Decode.lean ====
section
/-! DEFINITION. The decoder and the encoder, from the encodings of 30_encoding.md (R104 to R107) and the phase codes of
10_state.md R23. The four command formats come on four separate inputs, so a word is tagged with its format. -/
namespace Sys2Proof

/-! ### Format PH: the 5-bit phase codes (10_state.md R23) -/

def Phase.idle : BitVec 5 := 0
def Phase.hSig : BitVec 5 := 1
def Phase.hFilesize : BitVec 5 := 2
def Phase.hReserved : BitVec 5 := 3
def Phase.hDataoffset : BitVec 5 := 4
def Phase.hDibsize : BitVec 5 := 5
def Phase.hWidth : BitVec 5 := 6
def Phase.hHeight : BitVec 5 := 7
def Phase.hPlanes : BitVec 5 := 8
def Phase.hBpp : BitVec 5 := 9
def Phase.hCompression : BitVec 5 := 10
def Phase.hDatasize : BitVec 5 := 11
def Phase.hResh : BitVec 5 := 12
def Phase.hResv : BitVec 5 := 13
def Phase.hColors : BitVec 5 := 14
def Phase.hImpcolors : BitVec 5 := 15
def Phase.hPalette : BitVec 5 := 16
def Phase.hMasks : BitVec 5 := 17
def Phase.dChkcomp : BitVec 5 := 18
def Phase.dChkdepth : BitVec 5 := 19
def Phase.dSeek : BitVec 5 := 20
def Phase.dAlloc : BitVec 5 := 21
def Phase.dRowstart : BitVec 5 := 22
def Phase.dPixel : BitVec 5 := 23
def Phase.dRowend : BitVec 5 := 24
def Phase.dFinish : BitVec 5 := 25
def Phase.done : BitVec 5 := 30
def Phase.failed : BitVec 5 := 31

/-! ### Words -/

/-- A word on one of the engine's four command inputs: a cursor command (R105), a phase code (R106), the 16-bit depth
that selects a pixel operation (R104), a host command (R107). -/
inductive CmdWord where
  | cc (cmd : BitVec 35)
  | ph (code : BitVec 5)
  | bpp (depth : U16)
  | hc (cmd : BitVec 35)
  deriving DecidableEq, Repr

/-- Why a word stands for no operation. -/
inductive Reject where
  /-- the phase codes `IDLE`, `DONE`, `FAILED`: no operation is in progress (R23) -/
  | phaseNotAStep
  /-- phase codes 26 to 29, "unused and never held" (R23) -/
  | phaseUnused
  /-- a depth outside {1, 2, 4, 8, 16, 24, 32} selects no pixel operation (R104) -/
  | depthUnsupported
  deriving DecidableEq, Repr

/-! ### Decoding -/

/-- `cmd[34:32]`, the operation code of formats CC and HC. -/
def opField (cmd : BitVec 35) : BitVec 3 := cmd.extractLsb' 32 3

/-- `cmd[31:0]`, the argument of formats CC and HC, as a natural number. -/
def argField (cmd : BitVec 35) : Nat := (cmd.extractLsb' 0 32).toNat

/-- Format CC (R105). -/
def decodeCC (cmd : BitVec 35) : Instr :=
  match (opField cmd).toNat with
  | 0 => .rdu8
  | 1 => .rdu16
  | 2 => .rdu32
  | 3 => .rdstr (argField cmd)
  | 4 => .seek (argField cmd)
  | 5 => .tell
  | 6 => .skip (argField cmd)
  | _ => .reservedCc7

/-- Format PH (R106, R23). -/
def decodePH (code : BitVec 5) : Except Reject Instr :=
  match code.toNat with
  | 1 => .ok .hSig
  | 2 => .ok .hFilesize
  | 3 => .ok .hReserved
  | 4 => .ok .hDataoffset
  | 5 => .ok .hDibsize
  | 6 => .ok .hWidth
  | 7 => .ok .hHeight
  | 8 => .ok .hPlanes
  | 9 => .ok .hBpp
  | 10 => .ok .hCompression
  | 11 => .ok .hDatasize
  | 12 => .ok .hResh
  | 13 => .ok .hResv
  | 14 => .ok .hColors
  | 15 => .ok .hImpcolors
  | 16 => .ok .hPalette
  | 17 => .ok .hMasks
  | 18 => .ok .dChkcomp
  | 19 => .ok .dChkdepth
  | 20 => .ok .dSeek
  | 21 => .ok .dAlloc
  | 22 => .ok .dRowstart
  | 23 => .ok .dPixel
  | 24 => .ok .dRowend
  | 25 => .ok .dFinish
  | 0 | 30 | 31 => .error .phaseNotAStep
  | _ => .error .phaseUnused

/-- The pixel format that a depth selects, all 16 bits compared (R104). -/
def formatOfDepth (depth : U16) : Option PixelFormat :=
  match depth.toNat with
  | 1 => some .p1
  | 2 => some .p2
  | 4 => some .p4
  | 8 => some .p8
  | 16 => some .p16
  | 24 => some .p24
  | 32 => some .p32
  | _ => none

/-- The operation of a pixel format (R104). -/
def pixelInstr : PixelFormat → Instr
  | .p1 => .px1
  | .p2 => .px2
  | .p4 => .px4
  | .p8 => .px8
  | .p16 => .px16
  | .p24 => .px24
  | .p32 => .px32

/-- The depth selector (R104). -/
def decodeDepth (depth : U16) : Except Reject Instr :=
  match formatOfDepth depth with
  | some f => .ok (pixelInstr f)
  | none => .error .depthUnsupported

/-- Format HC (R107). -/
def decodeHC (cmd : BitVec 35) : Instr :=
  match (opField cmd).toNat with
  | 0 => .reset
  | 1 => .start
  | 2 => .rdreg (argField cmd)
  | 3 => .rdpal (argField cmd)
  | 4 => .rdout (argField cmd)
  | 5 => .reservedHc5
  | 6 => .reservedHc6
  | _ => .reservedHc7

/-- The decoder: total on every word of every format. -/
def decode : CmdWord → Except Reject Instr
  | .cc cmd => .ok (decodeCC cmd)
  | .ph code => decodePH code
  | .bpp depth => decodeDepth depth
  | .hc cmd => .ok (decodeHC cmd)

/-! ### Encoding -/

/-- `op || arg`, the 35-bit word of formats CC and HC (R105, R107). -/
def packCmd (op : BitVec 3) (arg : Nat) : BitVec 35 := op ++ BitVec.ofNat 32 arg

/-- The word of an operation; `none` for the two sub-operations, which have no encoding of their own. An ignored
argument field is written as 0. -/
def encode : Instr → Option CmdWord
  | .rdu8 => some (.cc (packCmd 0 0))
  | .rdu16 => some (.cc (packCmd 1 0))
  | .rdu32 => some (.cc (packCmd 2 0))
  | .rdstr n => some (.cc (packCmd 3 n))
  | .seek p => some (.cc (packCmd 4 p))
  | .tell => some (.cc (packCmd 5 0))
  | .skip n => some (.cc (packCmd 6 n))
  | .hSig => some (.ph Phase.hSig)
  | .hFilesize => some (.ph Phase.hFilesize)
  | .hReserved => some (.ph Phase.hReserved)
  | .hDataoffset => some (.ph Phase.hDataoffset)
  | .hDibsize => some (.ph Phase.hDibsize)
  | .hWidth => some (.ph Phase.hWidth)
  | .hHeight => some (.ph Phase.hHeight)
  | .hPlanes => some (.ph Phase.hPlanes)
  | .hBpp => some (.ph Phase.hBpp)
  | .hCompression => some (.ph Phase.hCompression)
  | .hDatasize => some (.ph Phase.hDatasize)
  | .hResh => some (.ph Phase.hResh)
  | .hResv => some (.ph Phase.hResv)
  | .hColors => some (.ph Phase.hColors)
  | .hImpcolors => some (.ph Phase.hImpcolors)
  | .hPalette => some (.ph Phase.hPalette)
  | .hMasks => some (.ph Phase.hMasks)
  | .dChkcomp => some (.ph Phase.dChkcomp)
  | .dChkdepth => some (.ph Phase.dChkdepth)
  | .dSeek => some (.ph Phase.dSeek)
  | .dAlloc => some (.ph Phase.dAlloc)
  | .dRowstart => some (.ph Phase.dRowstart)
  | .dPixel => some (.ph Phase.dPixel)
  | .dRowend => some (.ph Phase.dRowend)
  | .dFinish => some (.ph Phase.dFinish)
  | .px1 => some (.bpp 0x0001)
  | .px2 => some (.bpp 0x0002)
  | .px4 => some (.bpp 0x0004)
  | .px8 => some (.bpp 0x0008)
  | .px16 => some (.bpp 0x0010)
  | .px24 => some (.bpp 0x0018)
  | .px32 => some (.bpp 0x0020)
  | .unpack _ => none
  | .lookup _ => none
  | .reset => some (.hc (packCmd 0 0))
  | .start => some (.hc (packCmd 1 0))
  | .rdreg n => some (.hc (packCmd 2 n))
  | .rdpal i => some (.hc (packCmd 3 i))
  | .rdout i => some (.hc (packCmd 4 i))
  | .reservedCc7 => some (.cc (packCmd 7 0))
  | .reservedHc5 => some (.hc (packCmd 5 0))
  | .reservedHc6 => some (.hc (packCmd 6 0))
  | .reservedHc7 => some (.hc (packCmd 7 0))

/-! ### The words as spec/opcode_table.json numbers them -/

/-- The word that the table's bits stand for (assumption 11). A row of the table carries no tag of its format, so the
format is told from the number of bits: 35 bits (counted to 40) are a host command, the one 35-bit format that comes
from outside; 16 bits are a depth selector if they are a supported depth; every other count is the 5-bit phase code,
the bits above it dropped as the 5-bit register drops them. -/
def tableWord (nbits w : Nat) : CmdWord :=
  if 32 < nbits then .hc (BitVec.ofNat 35 w)
  else if 8 < nbits ∧ nbits ≤ 16 ∧ (formatOfDepth (BitVec.ofNat 16 w)).isSome then .bpp (BitVec.ofNat 16 w)
  else .ph (BitVec.ofNat 5 w)

/-- The instruction the decoder reads from a word of the opcode table. -/
def decodeTableWord (nbits w : Nat) : Option Instr :=
  match decode (tableWord nbits w) with
  | .ok i => some i
  | .error _ => none

end Sys2Proof
end

