-- ==== Sys2Proof/Machine/State.lean ====
section
/-! DEFINITION. The architectural state of 10_state.md R20, the model's own fields beside it, the reasons a step can
stop, and the state after reset (70_reset_and_hazards.md R301). "Unwritten" and "absent" are `none`, as R301 asks. -/
namespace Sys2Proof.Machine

/-- The input buffer `BUF` (R21, R60): `len` is `L`; `cells` lists the bytes other than 0, addresses strictly rising.
A byte below `len` that is not listed is 0, so that each buffer has one representation (assumption 7). -/
structure Memory where
  len   : Nat
  cells : List Host.Cell
  deriving DecidableEq, Repr

/-- A store of `size` `RGBA8` entries, `PAL` or `OUT` (R60): `cells` lists the written entries, indexes strictly
rising; an entry below `size` that is not listed is unwritten. -/
structure PixelStore where
  size  : Nat
  cells : List (Nat × Rgba8)
  deriving DecidableEq, Repr

/-- The metadata registers `md` (R24 to R36) and the channel masks (R38). `none` is "unwritten", for a mask "absent". -/
structure Metadata where
  fileSize             : Option U32
  dataOffset           : Option U32
  dibHeaderSize        : Option U32
  width                : Option U32
  height               : Option U32
  planesCount          : Option U16
  bitsPerPixel         : Option U16
  compression          : Option U32
  dataSize             : Option U32
  resolutionHorz       : Option U32
  resolutionVert       : Option U32
  colorsCount          : Option U32
  importantColorsCount : Option U32
  maskR                : Option U32
  maskG                : Option U32
  maskB                : Option U32
  deriving DecidableEq, Repr

/-- The five faults of the engine (60_exceptions.md R270). Taking one is a next state (R280), not a stop of the model. -/
inductive ErrKind where
  | formatError
  | unsupportedCompression
  | unsupportedDepth
  | outOfBounds
  | paletteIndexRange
  deriving DecidableEq, Repr

/-- The fault record `err` (R50). `info` and `pos` are exact natural numbers (R140). -/
structure ErrRecord where
  kind  : ErrKind
  info  : Nat
  pos   : Nat
  phase : BitVec 5
  deriving DecidableEq, Repr

/-- The profiling record (R48). -/
structure Prof where
  decodeMillis         : Nat
  pixelsPerMillisecond : Nat
  deriving DecidableEq, Repr

/-- `status` (R49). -/
inductive Status where
  | idle | parsing | decoding | done | failed
  deriving DecidableEq, Repr

/-- A value an operation returns: a number, the text of RDSTR, a pixel. -/
inductive Result where
  | number (n : Nat)
  | text (chars : List Char)
  | pixel (p : Rgba8)
  deriving DecidableEq, Repr

/-- What the host does between two runs (44_host_interface.md R250 to R252): it presents a byte source (`buf`, `L`), or
it issues a command in format HC (R107). -/
inductive HostInput where
  | present (m : Memory)
  | command (cmd : BitVec 35)
  deriving DecidableEq, Repr

/-- A word at the input of one of the engine's own units: a cursor command (R105), or the depth that selects a pixel
operation (R104). -/
inductive UnitCmd where
  | cursor (cmd : BitVec 35)
  | pixel (depth : U16)
  deriving DecidableEq, Repr

/-- The state. The fields up to `prof` are those of R20; the rest are the model's own (assumptions 8, 9, 10). -/
structure State where
  /-- the session's buffer (R21); handed over by START (R74) -/
  buf           : Memory
  /-- the cursor position (R22) -/
  pos           : Nat
  /-- the sequencer phase, a 5-bit code (R23) -/
  phase         : BitVec 5
  /-- the metadata registers and the masks (R24 to R36, R38) -/
  md            : Metadata
  /-- the metadata are complete (R40) -/
  mdValid       : Bool
  /-- the palette store (R37) -/
  pal           : Option PixelStore
  /-- the output row (R41) -/
  y             : Option U32
  /-- the column (R42) -/
  x             : Option U32
  /-- unconsumed bits of `currentByte` (R43) -/
  bitsRemaining : Fin 9
  /-- the last byte fetched by the bit-unpacker (R44) -/
  currentByte   : Byte
  /-- bytes the row's pixel operations have read (R45) -/
  rowBytes      : Nat
  /-- the output pixel space (R46) -/
  out           : Option PixelStore
  /-- the status register (R49) -/
  status        : Status
  /-- the fault record (R50) -/
  err           : Option ErrRecord
  /-- the profiling record (R48) -/
  prof          : Option Prof
  /-- model's own: the byte source the host presents (R251), taken as `buf` by START -/
  source        : Memory
  /-- model's own: what the host does next, oldest first -/
  inputs        : List HostInput
  /-- model's own: a word issued to the Cursor or the pixel unit and not yet run; `none` between sequencer steps (R52) -/
  unitCmd       : Option UnitCmd
  /-- model's own: what the last cursor or pixel operation run by itself returned to its issuer -/
  opResult      : Option Result
  /-- model's own: what the last host read command returned to the host -/
  hostResult    : Option Result
  /-- model's own: how many draws have been taken; numbers the free values -/
  draws         : Nat
  deriving DecidableEq, Repr

/-- Where the model is stuck: only in states that no session reaches (assumption 6). All are safe. -/
inductive Fault where
  /-- raised by fetching: the phase register holds a code that names no operation (26 to 29, R23, U14), or the word at
  the pixel unit is no supported depth; safe -/
  | noSuchOperation
  /-- raised by D_PIXEL: `md.bitsPerPixel` selects no pixel operation (R204: D_PIXEL cannot meet one); safe -/
  | noPixelOperation
  /-- raised by D_PIXEL: `out` is absent or has no entry at the index (R60: no such address); safe -/
  | noOutputEntry
  deriving DecidableEq, Repr

/-- What the model does not step on. All are safe: the spec gives none of these a step. -/
inductive Refusal where
  /-- an instruction without a meaning; raised by `exec` only -/
  | notModelled (mnemonic : String)
  /-- raised by a step outside a run when the host does nothing: the engine waits; safe -/
  | noHostInput
  /-- raised by the reserved cursor code 7 (R105: "a model refuses it"); safe -/
  | reservedCursorCode
  /-- raised by the reserved host code 5 (R258); safe -/
  | reservedHostCode5
  /-- raised by the reserved host code 6 (R258); safe -/
  | reservedHostCode6
  /-- raised by the reserved host code 7 (R258); safe -/
  | reservedHostCode7
  /-- raised by START outside `IDLE` (R252, R258); safe -/
  | startOutsideIdle
  /-- raised by RESET during a run (R253); safe -/
  | resetDuringRun
  /-- raised by RDREG of an item that R254 does not admit; safe -/
  | unreadableRegister
  /-- raised by RDPAL of an entry that R255 does not admit; safe -/
  | unreadablePaletteEntry
  /-- raised by RDOUT of a pixel that R256 does not admit; safe -/
  | unreadablePixel
  /-- raised by D_ALLOC when the image exceeds `OUT_CAP` (R194: "must refuse it"); safe -/
  | outputCapacityExceeded
  deriving DecidableEq, Repr

/-- The three outcomes of an operation. -/
abbrev Out := Host.Outcome State Fault Refusal

/-- A buffer of no bytes. -/
def Memory.empty : Memory := { len := 0, cells := [] }

/-- All metadata registers unwritten, the masks absent (R301). -/
def Metadata.unwritten : Metadata :=
  { fileSize := none, dataOffset := none, dibHeaderSize := none, width := none, height := none,
    planesCount := none, bitsPerPixel := none, compression := none, dataSize := none,
    resolutionHorz := none, resolutionVert := none, colorsCount := none, importantColorsCount := none,
    maskR := none, maskG := none, maskB := none }

/-- The state after reset (R301). `currentByte` is "unspecified": 0 is the model's value (assumption 3). No buffer has
been presented and the host has done nothing. -/
def State.reset : State :=
  { buf := Memory.empty, pos := 0, phase := Phase.idle, md := Metadata.unwritten, mdValid := false, pal := none,
    y := none, x := none, bitsRemaining := 0, currentByte := 0, rowBytes := 0, out := none, status := .idle,
    err := none, prof := none, source := Memory.empty, inputs := [], unitCmd := none, opResult := none,
    hostResult := none, draws := 0 }

end Sys2Proof.Machine
end

