-- ==== Sys2Proof/Machine/Operands.lean ====
section
/-! DEFINITION. Operands: reading the registers, the numeric codes the host sees, and the assembly of multi-byte fields,
palette indexes and channels (00_scope.md R13, R15; 30_encoding.md R102, R103). A register that is unwritten reads as a
free value (assumption 4); no operation of a session reads one (R14). -/
namespace Sys2Proof.Machine

/-! ### Numeric codes (the spec's own: R49, R276) -/

/-- The status codes (R49). -/
def Status.code : Status → Nat
  | .idle => 0
  | .parsing => 1
  | .decoding => 2
  | .done => 3
  | .failed => 4

/-- The fault codes (R276). -/
def ErrKind.code : ErrKind → Nat
  | .formatError => 1
  | .unsupportedCompression => 2
  | .unsupportedDepth => 3
  | .outOfBounds => 4
  | .paletteIndexRange => 5

/-! ### Registers the operations read; register numbers as in R53, 24 and 25 standing for `y` and `x` -/

def State.dataOffset (s : State) : U32 := s.md.dataOffset.getD (Config.unwritten 5 s.draws)
def State.width (s : State) : U32 := s.md.width.getD (Config.unwritten 7 s.draws)
def State.height (s : State) : U32 := s.md.height.getD (Config.unwritten 8 s.draws)
def State.bitsPerPixel (s : State) : U16 := s.md.bitsPerPixel.getD ((Config.unwritten 10 s.draws).setWidth 16)
def State.compression (s : State) : U32 := s.md.compression.getD (Config.unwritten 11 s.draws)
def State.colorsCount (s : State) : U32 := s.md.colorsCount.getD (Config.unwritten 15 s.draws)
def State.maskR (s : State) : U32 := s.md.maskR.getD (Config.unwritten 17 s.draws)
def State.maskG (s : State) : U32 := s.md.maskG.getD (Config.unwritten 18 s.draws)
def State.maskB (s : State) : U32 := s.md.maskB.getD (Config.unwritten 19 s.draws)
def State.row (s : State) : U32 := s.y.getD (Config.unwritten 24 s.draws)
def State.column (s : State) : U32 := s.x.getD (Config.unwritten 25 s.draws)

/-- The number of output pixels, exact (R11). -/
def State.pixelCount (s : State) : Nat := s.width.toNat * s.height.toNat

/-- The index in `out` of the pixel being decoded, exact (R46, R197). -/
def State.outIndex (s : State) : Nat := s.row.toNat * s.width.toNat + s.column.toNat

/-! ### Field assembly -/

/-- `char(b)`: the character whose code is `b` (R133, D28). -/
def latin1 (b : Byte) : Char := Char.ofNat b.toNat

/-- The value of a 2-byte field from its bytes, least significant first (R62, R102). -/
def le16 (b0 b1 : Byte) : U16 := BitVec.ofNat 16 (b0.toNat + 256 * b1.toNat)

/-- The value of a 4-byte field from its bytes, least significant first (R62, R102). -/
def le32 (b0 b1 b2 b3 : Byte) : U32 :=
  BitVec.ofNat 32 (b0.toNat + 2 ^ 8 * b1.toNat + 2 ^ 16 * b2.toNat + 2 ^ 24 * b3.toNat)

/-- The stored colour count with its zero-fallback (R166, R35). -/
def colorsFallback (stored : U32) (bpp : U16) : U32 :=
  if stored ≠ 0 then stored
  else if bpp.toNat < 32 then BitVec.ofNat 32 (2 ^ bpp.toNat)
  else 0

/-- The stored important-colour count with its zero-fallback (R167, R36). -/
def importantFallback (stored colors : U32) : U32 :=
  if stored ≠ 0 then stored else colors

/-- Bits per pixel of a sub-byte depth (R220). -/
def subBits : SubDepth → Nat
  | .d1 => 1
  | .d2 => 2
  | .d4 => 4

/-- Bits per pixel of a format (R104). -/
def formatBits : PixelFormat → Nat
  | .p1 => 1
  | .p2 => 2
  | .p4 => 4
  | .p8 => 8
  | .p16 => 16
  | .p24 => 24
  | .p32 => 32

/-- `(currentByte >> (bitsRemaining - bpp)) & ((1 << bpp) - 1)` (R103, R220). -/
def subIndex (currentByte : Byte) (bitsRemaining bpp : Nat) : Nat :=
  (currentByte.toNat >>> (bitsRemaining - bpp)) &&& ((1 <<< bpp) - 1)

/-- `NARROW8` (R8, D9): the identity below 256, free above. -/
def narrow8 (v : Nat) : Byte := if v < 256 then BitVec.ofNat 8 v else Config.narrowAbove v

/-- The colour of a 16-bit pixel: mask, fixed shift, `NARROW8` (R225). -/
def pixel16 (value : U16) (maskR maskG maskB : U32) : Rgba8 :=
  { red := narrow8 ((value.toNat &&& maskR.toNat) >>> 8)
    green := narrow8 ((value.toNat &&& maskG.toNat) >>> 3)
    blue := narrow8 ((value.toNat &&& maskB.toNat) <<< 3)
    alpha := 255 }

/-- `(4 - (rowBytes mod 4)) mod 4` (R198). -/
def padBytes (rowBytes : Nat) : Nat := (4 - rowBytes % 4) % 4

end Sys2Proof.Machine
end

