-- ==== Sys2Proof/Machine/Flags.lean ====
section
/-! DEFINITION. The predicates that play the role of flags (10_state.md R51). The engine has no arithmetic condition
codes: (a) the bit-unpacker state, (b) `mdValid`, a field of the state, (c) presence of the palette and of the masks,
(d) `status`. -/
namespace Sys2Proof.Machine

/-- The bit-unpacker is in state `NeedByte` (R51, R220). -/
def State.needByte (s : State) : Bool := s.bitsRemaining.val == 0

/-- A palette is read for this depth (R168): `≤ 8`, whether supported or not. -/
def hasPalette (bpp : U16) : Bool := decide (bpp.toNat ≤ 8)

/-- Channel masks are read for this depth (R169). -/
def hasMasks (bpp : U16) : Bool := decide (bpp.toNat = 16)

/-- The compression code passes (R191). -/
def compressionSupported (c : U32) : Bool := c == 0 || c == 3

/-- A run is in progress (R259). -/
def Status.running : Status → Bool
  | .parsing | .decoding => true
  | .idle | .done | .failed => false

/-- The run has ended (R261). -/
def Status.terminal : Status → Bool
  | .done | .failed => true
  | .idle | .parsing | .decoding => false

/-- The output space can hold `n` pixels (R8 `OUT_CAP`, R194). -/
def outputFits (n : Nat) : Bool :=
  match Config.outCap with
  | none => true
  | some cap => decide (n ≤ cap)

/-- The physical palette store has an entry `i` (R8 `PAL_CAP`, R255): always below 256. -/
def paletteStored (i : Nat) : Bool := decide (i < 256) || decide (i < Config.palCap)

end Sys2Proof.Machine
end

