-- ==== Sys2Proof/Machine/Ops.lean ====
section
/-! DEFINITION. The shared operations: the memories, the cursor operations of 40_cursor.md, taking a fault
(60_exceptions.md R280), and running an operation as a sequencer step or by itself. -/
namespace Sys2Proof.Machine

/-! ### Lists of keyed cells, keys strictly rising -/

/-- The value listed under a key. -/
def cellGet {α : Type} : List (Nat × α) → Nat → Option α
  | [], _ => none
  | (k, v) :: rest, a => if k = a then some v else cellGet rest a

/-- List `v` under the key `a`, keeping the keys rising. -/
def cellSet {α : Type} : List (Nat × α) → Nat → α → List (Nat × α)
  | [], a, v => [(a, v)]
  | (k, w) :: rest, a, v =>
    if a < k then (a, v) :: (k, w) :: rest
    else if a = k then (a, v) :: rest
    else (k, w) :: cellSet rest a v

/-- The keys are strictly rising, the first of them at least `lo`. -/
def cellsRising {α : Type} : List (Nat × α) → Nat → Bool
  | [], _ => true
  | (k, _) :: rest, lo => decide (lo ≤ k) && cellsRising rest (k + 1)

/-! ### The input buffer -/

/-- The canonical form: addresses strictly rising and below `len`, no byte listed that an unlisted address reads as. -/
def Memory.wf (m : Memory) : Bool :=
  cellsRising m.cells 0 && m.cells.all fun c => decide (c.1 < m.len) && (c.2 != 0)

/-- `buf[a]`; used below `len` only. -/
def Memory.byteAt (m : Memory) (a : Nat) : Byte := (cellGet m.cells a).getD 0

/-- The cells of consecutive bytes from address `a`. -/
def cellsOfBytes : List Byte → Nat → List Host.Cell
  | [], _ => []
  | b :: rest, a => if b = 0 then cellsOfBytes rest (a + 1) else (a, b) :: cellsOfBytes rest (a + 1)

/-- The buffer of the given bytes, in increasing address order. -/
def Memory.ofBytes (bytes : List Byte) : Memory :=
  { len := bytes.length, cells := cellsOfBytes bytes 0 }

/-- The little-endian `u16` at address `a` (R62). -/
def Memory.u16At (m : Memory) (a : Nat) : U16 := le16 (m.byteAt a) (m.byteAt (a + 1))

/-- The little-endian `u32` at address `a` (R62). -/
def Memory.u32At (m : Memory) (a : Nat) : U32 :=
  le32 (m.byteAt a) (m.byteAt (a + 1)) (m.byteAt (a + 2)) (m.byteAt (a + 3))

/-! ### The stores `PAL` and `OUT` -/

/-- The canonical form: indexes strictly rising and below `size`. -/
def PixelStore.wf (st : PixelStore) : Bool :=
  cellsRising st.cells 0 && st.cells.all fun c => decide (c.1 < st.size)

/-- A store of `n` entries, all unwritten (R168, R194). -/
def PixelStore.alloc (n : Nat) : PixelStore := { size := n, cells := [] }

/-- Entry `i`; `none` if it is unwritten or there is no such entry. -/
def PixelStore.get (st : PixelStore) (i : Nat) : Option Rgba8 :=
  if i < st.size then cellGet st.cells i else none

/-- Write the whole entry `i` (R67, R69); there is no entry at `size` and above. -/
def PixelStore.set (st : PixelStore) (i : Nat) (p : Rgba8) : PixelStore :=
  if i < st.size then { st with cells := cellSet st.cells i p } else st

/-- The component of a pixel at byte offset 0 to 3 (R101): red, green, blue, alpha. -/
def componentByte (p : Rgba8) : Nat → Byte
  | 0 => p.red
  | 1 => p.green
  | 2 => p.blue
  | _ => p.alpha

/-- The store as a host that reads bytes sees it: pixel `i` at `4*i` to `4*i + 3` (R101). -/
def PixelStore.byteAt (st : PixelStore) (a : Nat) : Option Byte :=
  (st.get (a / 4)).map fun p => componentByte p (a % 4)

/-- `pal[i]`; an unwritten entry reads as a free value (assumption 4). -/
def State.palEntry (s : State) (i : Nat) : Rgba8 :=
  ((s.pal.bind fun st => st.get i)).getD (Config.unwrittenPixel i s.draws)

/-! ### Operations that may raise a fault -/

/-- A fault being raised: its kind and the value it carries (R280, `raise F(info)`). -/
structure Raise where
  kind : ErrKind
  info : Nat
  deriving DecidableEq, Repr

/-- An operation inside a step: it returns a value in a new state, or raises a fault in the state it has reached. -/
abbrev Op (α : Type) := EStateM Raise State α

/-- `raise F(info)`. -/
def raise {α : Type} (kind : ErrKind) (info : Nat) : Op α := fun s => .error { kind, info } s

/-- Write registers. -/
def update (f : State → State) : Op Unit := fun s => .ok () (f s)

/-- A value computed from the registers. -/
def ask {α : Type} (f : State → α) : Op α := fun s => .ok (f s) s

/-- Go to the next phase. -/
def goto (phase : BitVec 5) : Op Unit := update fun s => { s with phase := phase }

/-! ### The cursor operations (40_cursor.md) -/

/-- A read of `n` bytes at `pos` (R68, R139, R140): the check is on the whole access, before any byte is read. -/
def cursorRead {α : Type} (n : Nat) (value : State → α) : Op α := fun s =>
  if s.pos + n > s.buf.len then .error { kind := .outOfBounds, info := s.pos + n } s
  else .ok (value s) { s with pos := s.pos + n }

/-- RDU8 (R130). -/
def rdu8 : Op Byte := cursorRead 1 fun s => s.buf.byteAt s.pos

/-- RDU16 (R131). -/
def rdu16 : Op U16 := cursorRead 2 fun s => s.buf.u16At s.pos

/-- RDU32 (R132). -/
def rdu32 : Op U32 := cursorRead 4 fun s => s.buf.u32At s.pos

/-- RDSTR n (R133). -/
def rdstr (n : Nat) : Op (List Char) :=
  cursorRead n fun s => (List.range n).map fun k => latin1 (s.buf.byteAt (s.pos + k))

/-- SEEK p (R134). -/
def seek (p : Nat) : Op Unit := fun s =>
  if p > s.buf.len then .error { kind := .outOfBounds, info := p } s
  else .ok () { s with pos := p }

/-- TELL (R135). -/
def tell : Op Nat := fun s => .ok s.pos s

/-- SKIP n, `SEEK(TELL() + n)` (R136). -/
def skip (n : Nat) : Op Unit := do
  let p ← tell
  seek (p + n)

/-! ### Taking a fault (60_exceptions.md R280) -/

/-- Fault entry in the step `step`: the record is written, the session ends. There is no return from it (R282). -/
def takeFault (r : Raise) (step : BitVec 5) (s : State) : State :=
  { s with
    err := some { kind := r.kind, info := r.info, pos := s.pos, phase := step }
    status := .failed
    phase := Phase.failed }

/-! ### Running operations -/

/-- Run an operation as the sequencer step `step`: a fault it raises is taken in that step. -/
def runStep (step : BitVec 5) (op : Op Unit) (s : State) : State :=
  match op s with
  | .ok _ s' => s'
  | .error r s' => takeFault r step s'

/-- Run an operation of the Cursor or the pixel unit by itself, within the step in progress: what it returns goes to its
issuer (`opResult`). -/
def runUnit (op : Op Result) (s : State) : State :=
  match op s with
  | .ok v s' => { s' with opResult := some v }
  | .error r s' => takeFault r s.phase s'

/-- As `runUnit`, for an operation that returns nothing. -/
def runUnitVoid (op : Op Unit) (s : State) : State := runStep s.phase op s

end Sys2Proof.Machine
end

