-- ==== Sys2Proof/Machine/Cursor.lean ====
section
/-! DEFINITION. The cursor operations as operations of their own (40_cursor.md R130 to R136): each runs within the step
in progress, gives its value back to its issuer (`opResult`), and takes `OutOfBounds` in that step. -/
namespace Sys2Proof.Machine

/-- RDU8 (R130). -/
def execRdu8 (s : State) : Out := .next (runUnit (do let v ← rdu8; return .number v.toNat) s)

/-- RDU16 (R131). -/
def execRdu16 (s : State) : Out := .next (runUnit (do let v ← rdu16; return .number v.toNat) s)

/-- RDU32 (R132). -/
def execRdu32 (s : State) : Out := .next (runUnit (do let v ← rdu32; return .number v.toNat) s)

/-- RDSTR n (R133). -/
def execRdstr (n : Nat) (s : State) : Out := .next (runUnit (do let t ← rdstr n; return .text t) s)

/-- SEEK p (R134). -/
def execSeek (p : Nat) (s : State) : Out := .next (runUnitVoid (seek p) s)

/-- TELL (R135). -/
def execTell (s : State) : Out := .next (runUnit (do let p ← tell; return .number p) s)

/-- SKIP n (R136). -/
def execSkip (n : Nat) (s : State) : Out := .next (runUnitVoid (skip n) s)

end Sys2Proof.Machine
end

