-- ==== Sys2Proof/Machine/Pixels.lean ====
section
/-! DEFINITION. The pixel-format operations, the bit-unpacker and the palette lookup (43_pixel_formats.md R220 to R228).
As operations of their own they give the pixel (UNPACK: the index) back to their issuer (`opResult`); D_PIXEL
(Decoder.lean) runs the same operations and writes the pixel to `out`. -/
namespace Sys2Proof.Machine

/-- Count bytes read by the row's pixel operations (R45). -/
def countRowBytes (n : Nat) : Op Unit := update fun s => { s with rowBytes := s.rowBytes + n }

/-- The transition `NeedByte --read byte--> HaveBits(8)` of the bit-unpacker (R220). -/
def fetchByte : Op Unit := do
  let b ← rdu8
  countRowBytes 1
  update fun s => { s with currentByte := b, bitsRemaining := 8 }

/-- The transition `HaveBits(n) --consume bpp--> HaveBits(n - bpp)` (R220). With fewer than `bpp` bits left, which a
row never meets, index and rest are free (assumption 5). -/
def consumeBits (bpp : Nat) : Op Nat := fun s =>
  let n := s.bitsRemaining.val
  if bpp ≤ n then
    .ok (subIndex s.currentByte n bpp)
      { s with bitsRemaining := ⟨n - bpp, Nat.lt_of_le_of_lt (Nat.sub_le _ _) s.bitsRemaining.isLt⟩ }
  else
    .ok (Config.underflowIndex bpp n s.currentByte % 2 ^ bpp)
      { s with bitsRemaining := Config.underflowRemaining bpp n s.currentByte }

/-- UNPACK (R220). -/
def unpack (d : SubDepth) : Op Nat := fun s =>
  if s.needByte then
    (do
      fetchByte
      consumeBits (subBits d)) s
  else consumeBits (subBits d) s

/-- LOOKUP (R228). -/
def lookup (index : Nat) : Op Rgba8 := fun s =>
  if index ≥ s.colorsCount.toNat then .error { kind := .paletteIndexRange, info := index } s
  else .ok (s.palEntry index) s

/-- PX1 (R221). -/
def px1 : Op Rgba8 := do
  let index ← unpack .d1
  lookup index

/-- PX2 (R222). -/
def px2 : Op Rgba8 := do
  let index ← unpack .d2
  lookup index

/-- PX4 (R223). -/
def px4 : Op Rgba8 := do
  let index ← unpack .d4
  lookup index

/-- PX8 (R224). -/
def px8 : Op Rgba8 := do
  let index ← rdu8
  countRowBytes 1
  lookup index.toNat

/-- PX16 (R225). -/
def px16 : Op Rgba8 := do
  let value ← rdu16
  countRowBytes 2
  ask fun s => pixel16 value s.maskR s.maskG s.maskB

/-- PX24 (R226). -/
def px24 : Op Rgba8 := do
  let b ← rdu8
  let g ← rdu8
  let r ← rdu8
  countRowBytes 3
  return { red := r, green := g, blue := b, alpha := 255 }

/-- PX32 (R227). -/
def px32 : Op Rgba8 := do
  let b ← rdu8
  let g ← rdu8
  let r ← rdu8
  let a ← rdu8
  countRowBytes 4
  return { red := r, green := g, blue := b, alpha := a }

/-- The operation of a pixel format (R104). -/
def pixelOp : PixelFormat → Op Rgba8
  | .p1 => px1
  | .p2 => px2
  | .p4 => px4
  | .p8 => px8
  | .p16 => px16
  | .p24 => px24
  | .p32 => px32

/-- Give the pixel back to the issuer. -/
def returnPixel (op : Op Rgba8) : Op Result := do
  let p ← op
  return .pixel p

def execPx1 (s : State) : Out := .next (runUnit (returnPixel px1) s)

def execPx2 (s : State) : Out := .next (runUnit (returnPixel px2) s)

def execPx4 (s : State) : Out := .next (runUnit (returnPixel px4) s)

def execPx8 (s : State) : Out := .next (runUnit (returnPixel px8) s)

def execPx16 (s : State) : Out := .next (runUnit (returnPixel px16) s)

def execPx24 (s : State) : Out := .next (runUnit (returnPixel px24) s)

def execPx32 (s : State) : Out := .next (runUnit (returnPixel px32) s)

def execUnpack (d : SubDepth) (s : State) : Out :=
  .next (runUnit (do let index ← unpack d; return .number index) s)

def execLookup (index : Nat) (s : State) : Out := .next (runUnit (returnPixel (lookup index)) s)

end Sys2Proof.Machine
end

