-- ==== Sys2Proof/Machine/Decoder.lean ====
section
/-! DEFINITION. The decoder control steps (42_pixel_decoder.md R191 to R199). -/
namespace Sys2Proof.Machine

/-- D_CHKCOMP (R191). -/
def stepChkcomp : Op Unit := fun s =>
  if compressionSupported s.compression then goto Phase.dChkdepth s
  else raise .unsupportedCompression s.compression.toNat s

def execDChkcomp (s : State) : Out := .next (runStep Phase.dChkcomp stepChkcomp s)

/-- D_CHKDEPTH (R192). The selection it makes is a function of `md.bitsPerPixel` (`formatOfDepth`). -/
def stepChkdepth : Op Unit := fun s =>
  if (formatOfDepth s.bitsPerPixel).isSome then goto Phase.dSeek s
  else raise .unsupportedDepth s.bitsPerPixel.toNat s

def execDChkdepth (s : State) : Out := .next (runStep Phase.dChkdepth stepChkdepth s)

/-- D_SEEK (R193). -/
def stepSeek : Op Unit := fun s =>
  (do
    seek s.dataOffset.toNat
    goto Phase.dAlloc) s

def execDSeek (s : State) : Out := .next (runStep Phase.dSeek stepSeek s)

/-- D_ALLOC's effect (R194): `out` present, all entries unwritten; the first source row is the last output row. -/
def allocOutput (s : State) : State :=
  let s' := { s with out := some (PixelStore.alloc s.pixelCount) }
  if s.height = 0 then { s' with phase := Phase.dFinish }
  else { s' with y := some (s.height - 1), phase := Phase.dRowstart }

/-- D_ALLOC (R194); refused when the output space cannot hold the image. -/
def execDAlloc (s : State) : Out :=
  if outputFits s.pixelCount then .next (allocOutput s) else .refused .outputCapacityExceeded

/-- D_ROWSTART's effect (R196). -/
def startRow (s : State) : State :=
  { s with
    x := some 0
    rowBytes := 0
    bitsRemaining := 0
    phase := if s.width = 0 then Phase.dRowend else Phase.dPixel }

def execDRowstart (s : State) : Out := .next (startRow s)

/-- The part of D_PIXEL after the pixel operation (R197): `out[y*width + x] <- p`, next column. -/
def storePixel (p : Rgba8) (s : State) : Out :=
  match s.out with
  | none => .fault .noOutputEntry
  | some st =>
    if s.outIndex < st.size then
      .next { s with
        out := some (st.set s.outIndex p)
        x := some (s.column + 1)
        phase := if s.column.toNat + 1 < s.width.toNat then Phase.dPixel else Phase.dRowend }
    else .fault .noOutputEntry

/-- D_PIXEL (R197): run the pixel operation that the depth selects; a fault it raises leaves `out` as it is. -/
def execDPixel (s : State) : Out :=
  match formatOfDepth s.bitsPerPixel with
  | none => .fault .noPixelOperation
  | some f =>
    match pixelOp f s with
    | .ok p s' => storePixel p s'
    | .error r s' => .next (takeFault r Phase.dPixel s')

/-- D_ROWEND (R198): skip the padding, reset the bit-unpacker, go to the next row or finish. -/
def stepRowend : Op Unit := fun s =>
  (do
    skip (padBytes s.rowBytes)
    update fun s => { s with bitsRemaining := 0 }
    update fun s =>
      if s.row = 0 then { s with phase := Phase.dFinish }
      else { s with y := some (s.row - 1), phase := Phase.dRowstart }) s

def execDRowend (s : State) : Out := .next (runStep Phase.dRowend stepRowend s)

/-- The profiling record of a run (R199, R48): present or absent by `PROF`, its two numbers draws. -/
def drawProf (n : Nat) : Option Prof :=
  if Config.profPresent then
    some { decodeMillis := Config.decodeMillis n, pixelsPerMillisecond := Config.pixelsPerMillisecond n }
  else none

/-- D_FINISH's effect (R199). -/
def finish (s : State) : State :=
  { s with prof := drawProf s.draws, draws := s.draws + 1, status := .done, phase := Phase.done }

def execDFinish (s : State) : Out := .next (finish s)

end Sys2Proof.Machine
end

