-- ==== Sys2Proof/Machine/Header.lean ====
section
/-! DEFINITION. The header steps (41_header_parser.md R151 to R171), in the order of R151. -/
namespace Sys2Proof.Machine

/-- The template of a plain 4-byte step (R165): read the field, write the named register, go to the next phase. -/
def readField32 (write : U32 → Metadata → Metadata) (nextPhase : BitVec 5) : Op Unit := do
  let v ← rdu32
  update fun s => { s with md := write v s.md }
  goto nextPhase

/-- The template of a plain 2-byte step (R165). -/
def readField16 (write : U16 → Metadata → Metadata) (nextPhase : BitVec 5) : Op Unit := do
  let v ← rdu16
  update fun s => { s with md := write v s.md }
  goto nextPhase

/-- The value `FormatError` carries: the two signature characters as a little-endian `u16` (R152, R271). -/
def signatureCode : List Char → Nat
  | [] => 0
  | c :: rest => c.toNat + 256 * signatureCode rest

/-- H_SIG (R152). -/
def stepSig : Op Unit := do
  let text ← rdstr 2
  if text ≠ ['B', 'M'] then raise .formatError (signatureCode text)
  else goto Phase.hFilesize

def execHSig (s : State) : Out := .next (runStep Phase.hSig stepSig s)

/-- H_FILESIZE (R153). -/
def execHFilesize (s : State) : Out :=
  .next (runStep Phase.hFilesize (readField32 (fun v md => { md with fileSize := some v }) Phase.hReserved) s)

/-- H_RESERVED (R154): the four bytes are read and dropped. -/
def stepReserved : Op Unit := do
  let _ ← rdu32
  goto Phase.hDataoffset

def execHReserved (s : State) : Out := .next (runStep Phase.hReserved stepReserved s)

/-- H_DATAOFFSET (R155). -/
def execHDataoffset (s : State) : Out :=
  .next (runStep Phase.hDataoffset (readField32 (fun v md => { md with dataOffset := some v }) Phase.hDibsize) s)

/-- H_DIBSIZE (R156). -/
def execHDibsize (s : State) : Out :=
  .next (runStep Phase.hDibsize (readField32 (fun v md => { md with dibHeaderSize := some v }) Phase.hWidth) s)

/-- H_WIDTH (R157). -/
def execHWidth (s : State) : Out :=
  .next (runStep Phase.hWidth (readField32 (fun v md => { md with width := some v }) Phase.hHeight) s)

/-- H_HEIGHT (R158). -/
def execHHeight (s : State) : Out :=
  .next (runStep Phase.hHeight (readField32 (fun v md => { md with height := some v }) Phase.hPlanes) s)

/-- H_PLANES (R159). -/
def execHPlanes (s : State) : Out :=
  .next (runStep Phase.hPlanes (readField16 (fun v md => { md with planesCount := some v }) Phase.hBpp) s)

/-- H_BPP (R160). -/
def execHBpp (s : State) : Out :=
  .next (runStep Phase.hBpp (readField16 (fun v md => { md with bitsPerPixel := some v }) Phase.hCompression) s)

/-- H_COMPRESSION (R161). -/
def execHCompression (s : State) : Out :=
  .next (runStep Phase.hCompression (readField32 (fun v md => { md with compression := some v }) Phase.hDatasize) s)

/-- H_DATASIZE (R162). -/
def execHDatasize (s : State) : Out :=
  .next (runStep Phase.hDatasize (readField32 (fun v md => { md with dataSize := some v }) Phase.hResh) s)

/-- H_RESH (R163). -/
def execHResh (s : State) : Out :=
  .next (runStep Phase.hResh (readField32 (fun v md => { md with resolutionHorz := some v }) Phase.hResv) s)

/-- H_RESV (R164). -/
def execHResv (s : State) : Out :=
  .next (runStep Phase.hResv (readField32 (fun v md => { md with resolutionVert := some v }) Phase.hColors) s)

/-- H_COLORS (R166). -/
def stepColors : Op Unit := do
  let stored ← rdu32
  update fun s => { s with md := { s.md with colorsCount := some (colorsFallback stored s.bitsPerPixel) } }
  goto Phase.hImpcolors

def execHColors (s : State) : Out := .next (runStep Phase.hColors stepColors s)

/-- H_IMPCOLORS (R167). -/
def stepImpcolors : Op Unit := do
  let stored ← rdu32
  update fun s =>
    { s with md := { s.md with importantColorsCount := some (importantFallback stored s.colorsCount) } }
  goto Phase.hPalette

def execHImpcolors (s : State) : Out := .next (runStep Phase.hImpcolors stepImpcolors s)

/-- One palette entry (R168, R92): B, G, R, and the alignment byte, which is skipped; alpha 255. -/
def readPaletteEntry (i : Nat) : Op Unit := do
  let b ← rdu8
  let g ← rdu8
  let r ← rdu8
  skip 1
  update fun s => { s with pal := s.pal.map fun st => st.set i { red := r, green := g, blue := b, alpha := 255 } }

/-- The palette loop (R168): `n` entries from entry `i` on. -/
def readPaletteEntries : Nat → Nat → Op Unit
  | 0, _ => pure ()
  | n + 1, i => do
    readPaletteEntry i
    readPaletteEntries n (i + 1)

/-- H_PALETTE (R168). -/
def stepPalette : Op Unit := fun s =>
  if hasPalette s.bitsPerPixel then
    (do
      update fun s => { s with pal := some (PixelStore.alloc s.colorsCount.toNat) }
      readPaletteEntries s.colorsCount.toNat 0
      goto Phase.hMasks) s
  else
    (do
      update fun s => { s with pal := none }
      goto Phase.hMasks) s

def execHPalette (s : State) : Out := .next (runStep Phase.hPalette stepPalette s)

/-- The end of the parse (R171): the metadata are complete and the Pixel Decoder starts. -/
def endOfParse : Op Unit :=
  update fun s => { s with mdValid := true, status := .decoding, phase := Phase.dChkcomp }

/-- H_MASKS (R169). -/
def stepMasks : Op Unit := fun s =>
  if hasMasks s.bitsPerPixel then
    (do
      let r ← rdu32
      update fun s => { s with md := { s.md with maskR := some r } }
      let g ← rdu32
      update fun s => { s with md := { s.md with maskG := some g } }
      let b ← rdu32
      update fun s => { s with md := { s.md with maskB := some b } }
      endOfParse) s
  else
    (do
      update fun s => { s with md := { s.md with maskR := none, maskG := none, maskB := none } }
      endOfParse) s

def execHMasks (s : State) : Out := .next (runStep Phase.hMasks stepMasks s)

end Sys2Proof.Machine
end

