-- ==== Sys2Proof/Machine/HostCommands.lean ====
section
/-! DEFINITION. The host commands (44_host_interface.md R252 to R258). A command that its rule does not admit is
refused: "it changes no state and returns no value", and the model has no step for it (R258). What a read command
returns goes to the host (`hostResult`). -/
namespace Sys2Proof.Machine

/-- START's effect (R252): the presented byte source becomes the session's buffer (R74), the parse begins. -/
def startSession (s : State) : State :=
  { s with buf := s.source, pos := 0, status := .parsing, phase := Phase.hSig }

/-- START (R252). -/
def execStart (s : State) : Out :=
  if s.status = .idle then .next (startSession s) else .refused .startOutsideIdle

/-- RESET's effect (R253, R301): every register of R20 to its reset value. The buffer is no register (R20), and the
model's own fields stay. -/
def resetRegisters (s : State) : State :=
  { State.reset with
    buf := s.buf
    source := s.source
    inputs := s.inputs
    unitCmd := s.unitCmd
    opResult := s.opResult
    hostResult := s.hostResult
    draws := s.draws }

/-- RESET (R253). -/
def execReset (s : State) : Out :=
  if s.status.running then .refused .resetDuringRun else .next (resetRegisters s)

/-- The metadata register of the numbers 4 to 16 (R53). -/
def metadataRegister (md : Metadata) : Nat → Option Nat
  | 4 => md.fileSize.map BitVec.toNat
  | 5 => md.dataOffset.map BitVec.toNat
  | 6 => md.dibHeaderSize.map BitVec.toNat
  | 7 => md.width.map BitVec.toNat
  | 8 => md.height.map BitVec.toNat
  | 9 => md.planesCount.map BitVec.toNat
  | 10 => md.bitsPerPixel.map BitVec.toNat
  | 11 => md.compression.map BitVec.toNat
  | 12 => md.dataSize.map BitVec.toNat
  | 13 => md.resolutionHorz.map BitVec.toNat
  | 14 => md.resolutionVert.map BitVec.toNat
  | 15 => md.colorsCount.map BitVec.toNat
  | 16 => md.importantColorsCount.map BitVec.toNat
  | _ => none

/-- The mask of the numbers 17 to 19 (R53). -/
def maskRegister (md : Metadata) : Nat → Option Nat
  | 17 => md.maskR.map BitVec.toNat
  | 18 => md.maskG.map BitVec.toNat
  | 19 => md.maskB.map BitVec.toNat
  | _ => none

/-- The field of the fault record of the numbers 1, 2, 3, 22 (R53). -/
def errRegister (e : ErrRecord) : Nat → Option Nat
  | 1 => some e.kind.code
  | 2 => some e.info
  | 3 => some e.pos
  | 22 => some e.phase.toNat
  | _ => none

/-- The field of the profiling record of the numbers 20, 21 (R53). -/
def profRegister (p : Prof) : Nat → Option Nat
  | 20 => some p.decodeMillis
  | 21 => some p.pixelsPerMillisecond
  | _ => none

/-- The depth as written, if it is (R254 reads it as a condition). -/
def depthIs (md : Metadata) (test : U16 → Bool) : Bool := (md.bitsPerPixel.map test).getD false

/-- What RDREG n returns; `none` if R254 does not admit the read. -/
def readRegister (n : Nat) (s : State) : Option Nat :=
  if n = 0 then some s.status.code
  else if n = 1 ∨ n = 2 ∨ n = 3 ∨ n = 22 then
    if s.status = .failed then s.err.bind fun e => errRegister e n else none
  else if 4 ≤ n ∧ n ≤ 16 then if s.mdValid then metadataRegister s.md n else none
  else if 17 ≤ n ∧ n ≤ 19 then
    if s.mdValid ∧ depthIs s.md hasMasks then maskRegister s.md n else none
  else if n = 20 ∨ n = 21 then
    if s.status = .done then s.prof.bind fun p => profRegister p n else none
  else if n = 23 then if s.status.terminal then some s.pos else none
  else none

/-- RDREG n (R254). -/
def execRdreg (n : Nat) (s : State) : Out :=
  match readRegister n s with
  | some v => .next { s with hostResult := some (.number v) }
  | none => .refused .unreadableRegister

/-- What RDPAL i returns; `none` if R255 does not admit the read. -/
def readPalette (i : Nat) (s : State) : Option Rgba8 :=
  if s.mdValid ∧ depthIs s.md hasPalette ∧ i < s.colorsCount.toNat ∧ paletteStored i then
    s.pal.bind fun st => st.get i
  else none

/-- RDPAL i (R255). -/
def execRdpal (i : Nat) (s : State) : Out :=
  match readPalette i s with
  | some p => .next { s with hostResult := some (.pixel p) }
  | none => .refused .unreadablePaletteEntry

/-- What RDOUT i returns; `none` if R256 does not admit the read. -/
def readOutput (i : Nat) (s : State) : Option Rgba8 :=
  if s.status = .done ∧ i < s.pixelCount then s.out.bind fun st => st.get i else none

/-- RDOUT i (R256). -/
def execRdout (i : Nat) (s : State) : Out :=
  match readOutput i s with
  | some p => .next { s with hostResult := some (.pixel p) }
  | none => .refused .unreadablePixel

end Sys2Proof.Machine
end

