-- ==== Sys2Proof/Machine/Reserved.lean ====
section
/-! DEFINITION. The reserved codes. Cursor code 7: "never issued; a model refuses it" (30_encoding.md R105). Host codes 5
to 7: refused, "it changes no state and returns no value", "A model makes such a command have no step"
(44_host_interface.md R258). -/
namespace Sys2Proof.Machine

def execReservedCc7 (_s : State) : Out := .refused .reservedCursorCode

def execReservedHc5 (_s : State) : Out := .refused .reservedHostCode5

def execReservedHc6 (_s : State) : Out := .refused .reservedHostCode6

def execReservedHc7 (_s : State) : Out := .refused .reservedHostCode7

end Sys2Proof.Machine
end

