-- ==== Sys2Proof/Machine/Dispatch.lean ====
section
/-! DEFINITION. The meaning of every operation. -/
namespace Sys2Proof.Machine

def exec (i : Instr) (s : State) : Host.Outcome State Fault Refusal :=
  match i with
  -- cursor operations
  | .rdu8 => Sys2Proof.Machine.execRdu8 s
  | .rdu16 => Sys2Proof.Machine.execRdu16 s
  | .rdu32 => Sys2Proof.Machine.execRdu32 s
  | .rdstr n => Sys2Proof.Machine.execRdstr n s
  | .seek p => Sys2Proof.Machine.execSeek p s
  | .tell => Sys2Proof.Machine.execTell s
  | .skip n => Sys2Proof.Machine.execSkip n s
  -- header steps
  | .hSig => Sys2Proof.Machine.execHSig s
  | .hFilesize => Sys2Proof.Machine.execHFilesize s
  | .hReserved => Sys2Proof.Machine.execHReserved s
  | .hDataoffset => Sys2Proof.Machine.execHDataoffset s
  | .hDibsize => Sys2Proof.Machine.execHDibsize s
  | .hWidth => Sys2Proof.Machine.execHWidth s
  | .hHeight => Sys2Proof.Machine.execHHeight s
  | .hPlanes => Sys2Proof.Machine.execHPlanes s
  | .hBpp => Sys2Proof.Machine.execHBpp s
  | .hCompression => Sys2Proof.Machine.execHCompression s
  | .hDatasize => Sys2Proof.Machine.execHDatasize s
  | .hResh => Sys2Proof.Machine.execHResh s
  | .hResv => Sys2Proof.Machine.execHResv s
  | .hColors => Sys2Proof.Machine.execHColors s
  | .hImpcolors => Sys2Proof.Machine.execHImpcolors s
  | .hPalette => Sys2Proof.Machine.execHPalette s
  | .hMasks => Sys2Proof.Machine.execHMasks s
  -- decoder control steps
  | .dChkcomp => Sys2Proof.Machine.execDChkcomp s
  | .dChkdepth => Sys2Proof.Machine.execDChkdepth s
  | .dSeek => Sys2Proof.Machine.execDSeek s
  | .dAlloc => Sys2Proof.Machine.execDAlloc s
  | .dRowstart => Sys2Proof.Machine.execDRowstart s
  | .dPixel => Sys2Proof.Machine.execDPixel s
  | .dRowend => Sys2Proof.Machine.execDRowend s
  | .dFinish => Sys2Proof.Machine.execDFinish s
  -- pixel-format operations and sub-operations
  | .px1 => Sys2Proof.Machine.execPx1 s
  | .px2 => Sys2Proof.Machine.execPx2 s
  | .px4 => Sys2Proof.Machine.execPx4 s
  | .px8 => Sys2Proof.Machine.execPx8 s
  | .px16 => Sys2Proof.Machine.execPx16 s
  | .px24 => Sys2Proof.Machine.execPx24 s
  | .px32 => Sys2Proof.Machine.execPx32 s
  | .unpack d => Sys2Proof.Machine.execUnpack d s
  | .lookup index => Sys2Proof.Machine.execLookup index s
  -- host commands
  | .reset => Sys2Proof.Machine.execReset s
  | .start => Sys2Proof.Machine.execStart s
  | .rdreg n => Sys2Proof.Machine.execRdreg n s
  | .rdpal index => Sys2Proof.Machine.execRdpal index s
  | .rdout index => Sys2Proof.Machine.execRdout index s
  -- reserved codes
  | .reservedCc7 => Sys2Proof.Machine.execReservedCc7 s
  | .reservedHc5 => Sys2Proof.Machine.execReservedHc5 s
  | .reservedHc6 => Sys2Proof.Machine.execReservedHc6 s
  | .reservedHc7 => Sys2Proof.Machine.execReservedHc7 s

end Sys2Proof.Machine
end

