-- ==== Sys2Proof/Machine/Fetch.lean ====
section
/-! DEFINITION. Where the next word comes from. The engine has no instruction memory: its program is hardwired and the
phase register is its program counter (10_state.md R23). A word issued to one of the engine's own units runs first,
within the step in progress; then the phase register names the sequencer step; and only when no step is in progress does
the host have a move (44_host_interface.md R259). -/
namespace Sys2Proof.Machine

/-- No step is in progress: the phase is `IDLE`, `DONE` or `FAILED`, and the host may act (R259). -/
def atRest (phase : BitVec 5) : Bool := phase == Phase.idle || phase == Phase.done || phase == Phase.failed

/-- What a step finds to do. -/
inductive Fetched where
  /-- a word to decode, and the state without it -/
  | word (w : CmdWord) (s : State)
  /-- the host has presented a byte source: the state with it -/
  | presented (s : State)
  /-- nothing: the host does nothing -/
  | nothing
  deriving DecidableEq, Repr

/-- The word on a unit's input, in its format. -/
def unitWord : UnitCmd → CmdWord
  | .cursor cmd => .cc cmd
  | .pixel depth => .bpp depth

/-- The host's next move. -/
def fetchHost (s : State) : Fetched :=
  match s.inputs with
  | [] => .nothing
  | .present m :: rest => .presented { s with source := m, inputs := rest }
  | .command cmd :: rest => .word (.hc cmd) { s with inputs := rest }

/-- What the next step has to do. -/
def fetch (s : State) : Fetched :=
  match s.unitCmd with
  | some c => .word (unitWord c) { s with unitCmd := none }
  | none => if atRest s.phase then fetchHost s else .word (.ph s.phase) s

/-- Place a word where `fetch` finds it next (assumption 11). -/
def placeWord (w : CmdWord) (s : State) : State :=
  match w with
  | .cc cmd => { s with unitCmd := some (.cursor cmd) }
  | .bpp depth => { s with unitCmd := some (.pixel depth) }
  | .ph code => { s with unitCmd := none, phase := code }
  | .hc cmd =>
    { s with
      unitCmd := none
      phase := if atRest s.phase then s.phase else Phase.idle
      inputs := .command cmd :: s.inputs }

end Sys2Proof.Machine
end

