-- ==== Sys2Proof/Machine/Step.lean ====
section
/-! DEFINITION. One step of the engine: fetch, decode, run. A step is one sequencer step (70_reset_and_hazards.md R310),
one host move, or one operation issued to a unit. -/
namespace Sys2Proof.Machine

/-- One step. -/
def step (s : State) : Host.Outcome State Fault Refusal :=
  match fetch s with
  | .word w s' =>
    match decode w with
    | .ok i => exec i s'
    | .error _ => .fault .noSuchOperation
  | .presented s' => .next s'
  | .nothing => .refused .noHostInput

/-- `s` with a word of the opcode table where `step` fetches its next instruction. -/
def State.withFetchWord (s : State) (nbits w : Nat) : State := placeWord (tableWord nbits w) s

end Sys2Proof.Machine
end

