-- ==== Sys2Proof/Machine/Summary.lean ====
section
/-! DEFINITION. The spec's closed forms: what a buffer means, without running the engine. Row geometry (30_encoding.md
R99, R111; 42_pixel_decoder.md R200), the parse as one function (41_header_parser.md R173), the pure reading of a pixel
(42_pixel_decoder.md R201), and the result of a session (10_state.md R47). No operation uses them; statements compare the
engine with them. -/
namespace Sys2Proof.Machine

/-- Bytes of the first `columns` pixels of a row (R99, R200): `ceil(columns * bpp / 8)`. -/
def rowLength (columns bpp : Nat) : Nat := (columns * bpp + 7) / 8

/-- The row stride (R99): the row's bytes and its padding. -/
def stride (width bpp : Nat) : Nat := rowLength width bpp + padBytes (rowLength width bpp)

/-- The parsed header length (R111). -/
def hdrLen (bpp : U16) (colors : U32) : Nat :=
  if hasPalette bpp then 54 + 4 * colors.toNat else if hasMasks bpp then 66 else 54

/-- The depth field of a buffer (R91). -/
def Memory.depth (m : Memory) : U16 := m.u16At 28

/-- The colour count of a buffer, after the fallback (R91, R166). -/
def Memory.colors (m : Memory) : U32 := colorsFallback (m.u32At 46) m.depth

/-- Width and height of a buffer (R91). -/
def Memory.width (m : Memory) : Nat := (m.u32At 18).toNat
def Memory.height (m : Memory) : Nat := (m.u32At 22).toNat

/-- The value of a metadata register written by the header step with code `step`, once the session has passed it. -/
def afterStep {α : Type} (step progress : Nat) (v : α) : Option α := if step < progress then some v else none

/-- A mask of a buffer (R93): present for depth 16 only. -/
def Memory.mask (m : Memory) (a : Nat) : Option U32 := if hasMasks m.depth then some (m.u32At a) else none

/-- The colour of palette entry `i` of a buffer (R92, R173). -/
def Memory.paletteColor (m : Memory) (i : Nat) : Rgba8 :=
  { red := m.byteAt (56 + 4 * i), green := m.byteAt (55 + 4 * i), blue := m.byteAt (54 + 4 * i), alpha := 255 }

/-- The address of the source row of output row `y` (R100, R201). -/
def Memory.rowStart (m : Memory) (f : PixelFormat) (y : Nat) : Nat :=
  (m.u32At 10).toNat + (m.height - 1 - y) * stride m.width (formatBits f)

/-- The end of the pixel array (R100). -/
def Memory.pixelsEnd (m : Memory) (f : PixelFormat) : Nat :=
  (m.u32At 10).toNat + m.height * stride m.width (formatBits f)

/-- The index in a packed row at address `a` of the pixel in column `x` (R94, R201). -/
def Memory.packedIndex (m : Memory) (bpp a x : Nat) : Nat :=
  ((m.byteAt (a + x * bpp / 8)).toNat >>> (8 - bpp - x * bpp % 8)) &&& (2 ^ bpp - 1)

/-- The palette index of the pixel in column `x` of a source row at address `a` (R201); none from 16 bpp on. -/
def Memory.indexAt (m : Memory) (f : PixelFormat) (a x : Nat) : Option Nat :=
  match f with
  | .p1 => some (m.packedIndex 1 a x)
  | .p2 => some (m.packedIndex 2 a x)
  | .p4 => some (m.packedIndex 4 a x)
  | .p8 => some (m.byteAt (a + x)).toNat
  | .p16 | .p24 | .p32 => none

/-- The pixel in column `x` of a source row at address `a` (R201). -/
def Memory.pixelAt (m : Memory) (f : PixelFormat) (a x : Nat) : Rgba8 :=
  match f with
  | .p1 => m.paletteColor (m.packedIndex 1 a x)
  | .p2 => m.paletteColor (m.packedIndex 2 a x)
  | .p4 => m.paletteColor (m.packedIndex 4 a x)
  | .p8 => m.paletteColor (m.byteAt (a + x)).toNat
  | .p16 => pixel16 (m.u16At (a + 2 * x)) (m.u32At 54) (m.u32At 58) (m.u32At 62)
  | .p24 =>
    { red := m.byteAt (a + 3 * x + 2), green := m.byteAt (a + 3 * x + 1), blue := m.byteAt (a + 3 * x), alpha := 255 }
  | .p32 =>
    { red := m.byteAt (a + 4 * x + 2), green := m.byteAt (a + 4 * x + 1), blue := m.byteAt (a + 4 * x)
      alpha := m.byteAt (a + 4 * x + 3) }

/-- The result of a session (R47). -/
structure DecodedImage where
  width     : U32
  height    : U32
  pixels    : List Rgba8
  profiling : Option Prof
  deriving DecidableEq, Repr

/-- The `DecodedImage` of a session that has reached `DONE` (R47): the pixels in row-major order. -/
def State.decodedImage (s : State) : Option DecodedImage :=
  if s.status = .done then
    some
      { width := s.width
        height := s.height
        pixels := (List.range s.pixelCount).filterMap fun i => readOutput i s
        profiling := s.prof }
  else none

end Sys2Proof.Machine
end

