-- ==== Sys2Proof/Safety.lean ====
section
/-! DEFINITION. What counts as a safe run: the canonical form of the memories, the coherence of the control registers,
and what the registers hold of the session's buffer at every step; the launch premises of 92_eei_decisions.md section 2;
and the steps a run has left. -/
namespace Sys2Proof.Machine

/-- A next state changed by `f`; a stop stays as it is. -/
def mapNext (f : State → State) : Out → Out
  | .next s => .next (f s)
  | .fault r => .fault r
  | .refused r => .refused r

/-! ### The memories -/

/-- The buffers a host move carries are in canonical form. -/
def HostInput.wf : HostInput → Bool
  | .present m => m.wf
  | .command _ => true

/-- Every memory of the state is in canonical form, and the cursor is in its buffer (R22). -/
structure State.Canonical (s : State) : Prop where
  buf      : s.buf.wf = true
  source   : s.source.wf = true
  inputs   : s.inputs.all HostInput.wf = true
  pal      : ∀ st, s.pal = some st → st.wf = true
  out      : ∀ st, s.out = some st → st.wf = true
  position : s.pos ≤ s.buf.len

/-! ### The control registers -/

/-- The status in which each phase is held (R49, R23); none for the codes 26 to 29. -/
def statusOfPhase (phase : BitVec 5) : Option Status :=
  if phase = Phase.idle then some .idle
  else if phase.toNat ≤ 17 then some .parsing
  else if phase.toNat ≤ 25 then some .decoding
  else if phase = Phase.done then some .done
  else if phase = Phase.failed then some .failed
  else none

/-- The phase a session has come to: that of the step in progress or, after a fault, of the step that faulted. -/
def State.progress (s : State) : Nat :=
  match s.status, s.err with
  | .failed, some e => e.phase.toNat
  | _, _ => s.phase.toNat

/-- The control registers agree: status with phase (R49), the fault record with `FAILED` (R50), `mdValid` with the end of
the parse (R171); no word is pending in a unit (R52); and in `IDLE` every register has its reset value (R301). -/
structure State.Coherent (s : State) : Prop where
  status  : statusOfPhase s.phase = some s.status
  err     : s.err.isSome = (s.status == .failed)
  errStep : ∀ e, s.err = some e → 1 ≤ e.phase.toNat ∧ e.phase.toNat ≤ 25
  mdValid : s.mdValid = decide (18 ≤ s.progress)
  prof    : s.prof.isSome = true → s.status = .done
  unit    : s.unitCmd = none
  idle    : s.status = .idle → s = resetRegisters s

/-! ### The metadata -/

/-- The position at the start of each fixed header step (R91): 0 for H_SIG (code 1), 54 for H_PALETTE (code 16). -/
def headerOffset : Nat → Nat
  | 1 => 0
  | 2 => 2
  | 3 => 6
  | 4 => 10
  | 5 => 14
  | 6 => 18
  | 7 => 22
  | 8 => 26
  | 9 => 28
  | 10 => 30
  | 11 => 34
  | 12 => 38
  | 13 => 42
  | 14 => 46
  | 15 => 50
  | _ => 54

/-- The position after H_PALETTE (R168). -/
def Memory.paletteEnd (m : Memory) : Nat := if hasPalette m.depth then 54 + 4 * m.colors.toNat else 54

/-- The palette that a buffer describes (R168, R173). -/
def Memory.PaletteIs (m : Memory) (pal : Option PixelStore) : Prop :=
  if hasPalette m.depth then
    ∃ st, pal = some st ∧ st.size = m.colors.toNat ∧ ∀ i, i < m.colors.toNat → st.get i = some (m.paletteColor i)
  else pal = none

/-- The registers hold exactly what the header steps passed so far read from the session's buffer (R151, R173), the rest
being unwritten or absent, and during the parse the cursor is where R174 says. -/
structure State.Parsed (s : State) : Prop where
  coherent  : s.Coherent
  signature : 1 < s.progress → s.buf.byteAt 0 = 0x42 ∧ s.buf.byteAt 1 = 0x4D
  fileSize  : s.md.fileSize = afterStep 2 s.progress (s.buf.u32At 2)
  dataOffset : s.md.dataOffset = afterStep 4 s.progress (s.buf.u32At 10)
  dibHeaderSize : s.md.dibHeaderSize = afterStep 5 s.progress (s.buf.u32At 14)
  width     : s.md.width = afterStep 6 s.progress (s.buf.u32At 18)
  height    : s.md.height = afterStep 7 s.progress (s.buf.u32At 22)
  planesCount : s.md.planesCount = afterStep 8 s.progress (s.buf.u16At 26)
  bitsPerPixel : s.md.bitsPerPixel = afterStep 9 s.progress (s.buf.u16At 28)
  compression : s.md.compression = afterStep 10 s.progress (s.buf.u32At 30)
  dataSize  : s.md.dataSize = afterStep 11 s.progress (s.buf.u32At 34)
  resolutionHorz : s.md.resolutionHorz = afterStep 12 s.progress (s.buf.u32At 38)
  resolutionVert : s.md.resolutionVert = afterStep 13 s.progress (s.buf.u32At 42)
  colorsCount : s.md.colorsCount = afterStep 14 s.progress s.buf.colors
  importantColorsCount :
    s.md.importantColorsCount = afterStep 15 s.progress (importantFallback (s.buf.u32At 50) s.buf.colors)
  palette   : 16 < s.progress → s.buf.PaletteIs s.pal
  noPalette : s.progress < 16 ∨ s.phase = Phase.hPalette → s.pal = none
  masks     : 17 < s.progress →
    s.md.maskR = s.buf.mask 54 ∧ s.md.maskG = s.buf.mask 58 ∧ s.md.maskB = s.buf.mask 62
  noMasks   : s.progress < 17 ∨ s.phase = Phase.hMasks →
    s.md.maskR = none ∧ s.md.maskG = none ∧ s.md.maskB = none
  headerPos : s.status = .parsing → s.phase ≠ Phase.hMasks → s.pos = headerOffset s.phase.toNat
  masksPos  : s.phase = Phase.hMasks → s.pos = s.buf.paletteEnd
  decodePos : 18 ≤ s.phase.toNat → s.phase.toNat ≤ 20 → s.pos = hdrLen s.buf.depth s.buf.colors
  header    : 17 < s.progress → hdrLen s.buf.depth s.buf.colors ≤ s.buf.len
  inBounds  : s.pos ≤ s.buf.len

/-! ### The decode -/

/-- The output row and column the decode has come to, as "every pixel of a row above `row`, and in row `row` every column
below `column`, is written"; rows are written from the last output row to row 0 (R78, R195). -/
def State.Written (s : State) (f : PixelFormat) (row column : Nat) : Prop :=
  ∃ st, s.out = some st ∧ st.size = s.buf.width * s.buf.height ∧
    ∀ y x, y < s.buf.height → x < s.buf.width → (row < y ∨ (row = y ∧ x < column)) →
      st.get (y * s.buf.width + x) = some (s.buf.pixelAt f (s.buf.rowStart f y) x)

/-- The row registers in column `column` of the source row of output row `row` (R43, R45, R200, R220): the bytes of the
columns before it have been read, the bit-unpacker holds what is left of the last of them. -/
structure State.InRow (s : State) (f : PixelFormat) (row column : Nat) : Prop where
  pos       : s.pos = s.buf.rowStart f row + rowLength column (formatBits f)
  rowBytes  : s.rowBytes = rowLength column (formatBits f)
  remaining : s.bitsRemaining.val = (8 - column * formatBits f % 8) % 8
  current   : s.bitsRemaining.val ≠ 0 →
    s.currentByte = s.buf.byteAt (s.buf.rowStart f row + column * formatBits f / 8)

/-- The decoder's registers and the output hold what the steps passed so far make of the session's buffer (R190 to R201).
-/
structure State.Decoded (s : State) : Prop where
  parsed   : s.Parsed
  passed   : 18 < s.progress → compressionSupported (s.buf.u32At 30) = true
  selected : 19 < s.progress → (formatOfDepth s.buf.depth).isSome = true
  sought   : s.phase = Phase.dAlloc → s.pos = (s.buf.u32At 10).toNat
  noOutput : s.progress ≤ 21 → s.out = none
  rowStart : ∀ f, formatOfDepth s.buf.depth = some f → s.phase = Phase.dRowstart →
    ∃ y, s.y = some y ∧ y.toNat < s.buf.height ∧ s.pos = s.buf.rowStart f y.toNat ∧ s.Written f y.toNat 0
  pixel    : ∀ f, formatOfDepth s.buf.depth = some f → s.phase = Phase.dPixel →
    ∃ y x, s.y = some y ∧ s.x = some x ∧ y.toNat < s.buf.height ∧ x.toNat < s.buf.width ∧
      s.InRow f y.toNat x.toNat ∧ s.Written f y.toNat x.toNat
  rowEnd   : ∀ f, formatOfDepth s.buf.depth = some f → s.phase = Phase.dRowend →
    ∃ y x, s.y = some y ∧ s.x = some x ∧ y.toNat < s.buf.height ∧ x.toNat = s.buf.width ∧
      s.InRow f y.toNat x.toNat ∧ s.Written f y.toNat x.toNat
  finished : ∀ f, formatOfDepth s.buf.depth = some f → s.phase = Phase.dFinish ∨ s.phase = Phase.done →
    s.pos = s.buf.pixelsEnd f ∧ s.Written f 0 s.buf.width

/-! ### Buffers that hold a whole image (R111, R201) -/

/-- The buffer holds the whole parsed header (R111) and, for a supported depth, the whole pixel array (R100): no access of
the session lies beyond it. -/
structure Memory.Covered (m : Memory) : Prop where
  header : hdrLen m.depth m.colors ≤ m.len
  pixels : ∀ f, formatOfDepth m.depth = some f → m.pixelsEnd f ≤ m.len

/-- The premise of R201: the buffer is covered, begins with "BM", has a supported compression and the depth of `f`, and no
pixel's palette index is out of range. -/
structure Memory.Decodable (m : Memory) (f : PixelFormat) : Prop where
  covered     : m.Covered
  signature   : m.byteAt 0 = 0x42 ∧ m.byteAt 1 = 0x4D
  compression : (m.u32At 30).toNat = 0 ∨ (m.u32At 30).toNat = 3
  depth       : formatOfDepth m.depth = some f
  indexes     : ∀ y x i, y < m.height → x < m.width → m.indexAt f (m.rowStart f y) x = some i → i < m.colors.toNat

/-! ### Launch premises (92_eei_decisions.md section 2) -/

/-- The output space can hold the session's image (D12). -/
def State.OutputFits (s : State) : Prop := outputFits (s.buf.width * s.buf.height) = true

/-- The physical position register is wide enough for the session's buffer (D2). -/
def State.PositionFits (s : State) : Prop := s.buf.len + 4 < 2 ^ Config.posW

/-! ### The steps a run has left (70_reset_and_hazards.md R310) -/

/-- The sequencer steps, the one in progress among them, that a run takes to `DONE` if no step faults: the 21 steps
before the rows, `width + 2` for each row, D_FINISH. -/
def State.stepsLeft (s : State) : Nat :=
  let w := s.buf.width
  let h := s.buf.height
  let p := s.phase.toNat
  if p = 0 ∨ 26 ≤ p then 0
  else if p ≤ 21 then (22 - p) + h * (w + 2) + 1
  else if p = 22 then s.row.toNat * (w + 2) + (w + 2) + 1
  else if p = 23 then s.row.toNat * (w + 2) + (w - s.column.toNat) + 2
  else if p = 24 then s.row.toNat * (w + 2) + 2
  else 1

end Sys2Proof.Machine
end

