-- ==== Sys2Proof/Certificates/Slice0/Obligations.lean ====
section
/-! DEFINITION. The statements for the provers. Values of fields, indexes and channels are written here as natural-number
formulas of the rules, not by the model's own assembly functions, where the two can differ. -/
namespace Sys2Proof.Statements
open Sys2Proof.Machine

/-- Fault entry (R280): the record, the status and the phase after a fault of step `step` raised with the cursor where
`s` has it; all else as in `s`. -/
def failedWith (kind : ErrKind) (info : Nat) (step : BitVec 5) (s : State) : State :=
  { s with
    err := some { kind := kind, info := info, pos := s.pos, phase := step }
    status := .failed
    phase := 31 }

/-- The byte at address `a` as a number. -/
def byteNat (s : State) (a : Nat) : Nat := (s.buf.byteAt a).toNat

/-- The little-endian number of 2 bytes (R62). -/
def num16 (s : State) (a : Nat) : Nat := byteNat s a + 256 * byteNat s (a + 1)

/-- The little-endian number of 4 bytes (R62). -/
def num32 (s : State) (a : Nat) : Nat :=
  byteNat s a + 256 * byteNat s (a + 1) + 65536 * byteNat s (a + 2) + 16777216 * byteNat s (a + 3)

/-- The seven cursor operations. -/
def isCursor : Instr → Bool
  | .rdu8 | .rdu16 | .rdu32 | .rdstr _ | .seek _ | .tell | .skip _ => true
  | _ => false

/-- The position a cursor operation needs to reach (R140); TELL needs none beyond the present one. -/
def cursorTarget (i : Instr) (s : State) : Nat :=
  match i with
  | .rdu8 => s.pos + 1
  | .rdu16 => s.pos + 2
  | .rdu32 => s.pos + 4
  | .rdstr n => s.pos + n
  | .seek p => p
  | .skip n => s.pos + n
  | _ => s.pos

/-- The step a fault of `i` is recorded in (R280): its own phase code if it is a sequencer step, the step in progress if
it is an operation of a unit. -/
def faultStep (i : Instr) (s : State) : BitVec 5 :=
  match encode i with
  | some (.ph code) => code
  | _ => s.phase

/-- A plain step of R165 that reads a `u32`: its phase code, the step, the register it writes, the next phase code. -/
structure Plain32 where
  code  : BitVec 5
  instr : Instr
  write : Metadata → U32 → Metadata
  next  : BitVec 5

/-- The nine plain 4-byte steps (R165), in the table of R91. -/
def plain32 : List Plain32 :=
  [⟨2, .hFilesize, fun md v => { md with fileSize := some v }, 3⟩,
   ⟨4, .hDataoffset, fun md v => { md with dataOffset := some v }, 5⟩,
   ⟨5, .hDibsize, fun md v => { md with dibHeaderSize := some v }, 6⟩,
   ⟨6, .hWidth, fun md v => { md with width := some v }, 7⟩,
   ⟨7, .hHeight, fun md v => { md with height := some v }, 8⟩,
   ⟨10, .hCompression, fun md v => { md with compression := some v }, 11⟩,
   ⟨11, .hDatasize, fun md v => { md with dataSize := some v }, 12⟩,
   ⟨12, .hResh, fun md v => { md with resolutionHorz := some v }, 13⟩,
   ⟨13, .hResv, fun md v => { md with resolutionVert := some v }, 14⟩]

/-- A plain step of R165 that reads a `u16`. -/
structure Plain16 where
  code  : BitVec 5
  instr : Instr
  write : Metadata → U16 → Metadata
  next  : BitVec 5

/-- The two plain 2-byte steps (R165). -/
def plain16 : List Plain16 :=
  [⟨8, .hPlanes, fun md v => { md with planesCount := some v }, 9⟩,
   ⟨9, .hBpp, fun md v => { md with bitsPerPixel := some v }, 10⟩]

/-- The operations that read, seek or skip (R274): the cursor operations but TELL, every header step, D_SEEK, every pixel
operation and the byte fetch of UNPACK, D_PIXEL, D_ROWEND. -/
def accessesBuffer : Instr → Bool
  | .rdu8 | .rdu16 | .rdu32 | .rdstr _ | .seek _ | .skip _ => true
  | .hSig | .hFilesize | .hReserved | .hDataoffset | .hDibsize | .hWidth | .hHeight | .hPlanes | .hBpp | .hCompression
  | .hDatasize | .hResh | .hResv | .hColors | .hImpcolors | .hPalette | .hMasks => true
  | .dSeek | .dPixel | .dRowend => true
  | .px1 | .px2 | .px4 | .px8 | .px16 | .px24 | .px32 | .unpack _ => true
  | _ => false

/-- The step is RESET, given by the host outside a run: the next host move of `s` is that command, and `t` is the rest of
`s` with every register reset. -/
def wasReset (s t : State) : Prop :=
  ∃ cmd rest, s.inputs = .command cmd :: rest ∧ opField cmd = 0 ∧ s.status.running = false ∧
    t = resetRegisters { s with inputs := rest }

/-- The state as RDREG, RDPAL and RDOUT leave it: the value goes to the host, nothing else changes. -/
def answered (r : Result) (s : State) : State := { s with hostResult := some r }

/-- The two words select the same operation: they agree except in an ignored argument. -/
def sameSelector : CmdWord → CmdWord → Prop
  | .cc a, .cc b => opField a = opField b
  | .ph a, .ph b => a = b
  | .bpp a, .bpp b => a = b
  | .hc a, .hc b => opField a = opField b
  | _, _ => False

end Sys2Proof.Statements

open Sys2Proof Sys2Proof.Machine Sys2Proof.Statements

/-! ### Encoding and stepping -/

/-- Words written out from 30_encoding.md R104 to R107 and 10_state.md R23 decode to the operation they stand for. -/
def Obligations.WordsOfTheTableDecode : Prop :=
  decode (.cc 0b011_00000000000000000000000000000010#35) = .ok (.rdstr 2) ∧
  decode (.cc 0b100_00000000000000000000000000110110#35) = .ok (.seek 54) ∧
  decode (.ph 0b00001#5) = .ok .hSig ∧
  decode (.ph 0b10001#5) = .ok .hMasks ∧
  decode (.ph 0b10111#5) = .ok .dPixel ∧
  decode (.bpp 0b0000000000011000#16) = .ok .px24 ∧
  decode (.hc 0b001_00000000000000000000000000000000#35) = .ok .start ∧
  decode (.hc 0b010_00000000000000000000000000010111#35) = .ok (.rdreg 23) ∧
  decode (.hc 0b111_00000000000000000000000000000000#35) = .ok .reservedHc7

/-- The word of every well-formed operation decodes to that operation with its operand. -/
def Obligations.EncodedInstructionDecodesBack : Prop :=
  ∀ (i : Instr) (w : CmdWord), WellFormed i → encode i = some w → decode w = .ok i

/-- The other direction: a word that decodes is, up to an ignored argument, the word the encoder gives; and what a word
decodes to is well formed. No word has two meanings and no operation two codes. -/
def Obligations.DecodedWordIsTheEncodedOne : Prop :=
  ∀ (w : CmdWord) (i : Instr), decode w = .ok i →
    WellFormed i ∧ ∃ w', encode i = some w' ∧ sameSelector w w' ∧ decode w' = .ok i

/-- Of the 65536 depth selectors exactly seven select an operation, and of the 32 phase codes exactly 1 to 25 name a
step (R104, R23). -/
def Obligations.OnlyTheListedSelectorsDecode : Prop :=
  (∀ v : U16, (∃ i, decode (.bpp v) = .ok i) ↔ v.toNat ∈ [1, 2, 4, 8, 16, 24, 32]) ∧
  (∀ c : BitVec 5, (∃ i, decode (.ph c) = .ok i) ↔ 1 ≤ c.toNat ∧ c.toNat ≤ 25)

/-- A step runs the decoded operation: a word issued to a unit first; else the step that the phase register names; else,
with no step in progress, the host's next command. -/
def Obligations.StepRunsTheDecodedOperation : Prop :=
  ∀ (s : State) (i : Instr),
    (∀ cmd, s.unitCmd = some (.cursor cmd) → decode (.cc cmd) = .ok i → step s = exec i { s with unitCmd := none }) ∧
    (∀ depth, s.unitCmd = some (.pixel depth) → decode (.bpp depth) = .ok i →
      step s = exec i { s with unitCmd := none }) ∧
    (s.unitCmd = none → decode (.ph s.phase) = .ok i → step s = exec i s) ∧
    (∀ cmd rest, s.unitCmd = none → s.phase ∈ [0, 30, 31] → s.inputs = .command cmd :: rest →
      decode (.hc cmd) = .ok i → step s = exec i { s with inputs := rest })

/-- Outside a run the host's presenting a byte source only makes it the source of the next START, and with nothing from
the host there is no step. -/
def Obligations.StepAtRestTakesTheHostsMove : Prop :=
  ∀ s : State, s.unitCmd = none → s.phase ∈ [0, 30, 31] →
    (∀ m rest, s.inputs = .present m :: rest → step s = .next { s with source := m, inputs := rest }) ∧
    (s.inputs = [] → step s = .refused .noHostInput)

/-- During a run nothing the host does affects it (R259): whatever the host has lined up or presented, the step is the
same step. -/
def Obligations.HostCannotAffectARun : Prop :=
  ∀ (s : State) (moves : List HostInput) (m : Memory), s.unitCmd = none → 1 ≤ s.phase.toNat → s.phase.toNat ≤ 25 →
    step { s with inputs := moves, source := m } = mapNext (fun t => { t with inputs := moves, source := m }) (step s)

/-! ### Cursor -/

/-- RDU8, RDU16, RDU32 (R130, R131, R132). -/
def Obligations.CursorReadsAreLittleEndian : Prop :=
  (∀ cmd, opField cmd = 0 → decode (.cc cmd) = .ok .rdu8) ∧
  (∀ cmd, opField cmd = 1 → decode (.cc cmd) = .ok .rdu16) ∧
  (∀ cmd, opField cmd = 2 → decode (.cc cmd) = .ok .rdu32) ∧
  ∀ s : State,
    (s.pos + 1 ≤ s.buf.len →
      exec .rdu8 s = .next { s with pos := s.pos + 1, opResult := some (.number (byteNat s s.pos)) }) ∧
    (s.buf.len < s.pos + 1 → exec .rdu8 s = .next (failedWith .outOfBounds (s.pos + 1) s.phase s)) ∧
    (s.pos + 2 ≤ s.buf.len →
      exec .rdu16 s = .next { s with pos := s.pos + 2, opResult := some (.number (num16 s s.pos)) }) ∧
    (s.buf.len < s.pos + 2 → exec .rdu16 s = .next (failedWith .outOfBounds (s.pos + 2) s.phase s)) ∧
    (s.pos + 4 ≤ s.buf.len →
      exec .rdu32 s = .next { s with pos := s.pos + 4, opResult := some (.number (num32 s s.pos)) }) ∧
    (s.buf.len < s.pos + 4 → exec .rdu32 s = .next (failedWith .outOfBounds (s.pos + 4) s.phase s))

/-- RDSTR n (R133): a text of `n` characters whose codes are the bytes. -/
def Obligations.RdstrReadsLatin1Text : Prop :=
  (∀ cmd, opField cmd = 3 → decode (.cc cmd) = .ok (.rdstr (cmd.toNat % 2 ^ 32))) ∧
  ∀ (s : State) (n : Nat),
    (s.pos + n ≤ s.buf.len →
      ∃ text : List Char,
        exec (.rdstr n) s = .next { s with pos := s.pos + n, opResult := some (.text text) } ∧
        text.length = n ∧ ∀ k, k < n → (text[k]?).map Char.toNat = some (byteNat s (s.pos + k))) ∧
    (s.buf.len < s.pos + n → exec (.rdstr n) s = .next (failedWith .outOfBounds (s.pos + n) s.phase s))

/-- SEEK, TELL, SKIP (R134, R135, R136). -/
def Obligations.SeekTellSkipPositionTheCursor : Prop :=
  (∀ cmd, opField cmd = 4 → decode (.cc cmd) = .ok (.seek (cmd.toNat % 2 ^ 32))) ∧
  (∀ cmd, opField cmd = 5 → decode (.cc cmd) = .ok .tell) ∧
  (∀ cmd, opField cmd = 6 → decode (.cc cmd) = .ok (.skip (cmd.toNat % 2 ^ 32))) ∧
  ∀ (s : State) (n : Nat),
    (n ≤ s.buf.len → exec (.seek n) s = .next { s with pos := n }) ∧
    (s.buf.len < n → exec (.seek n) s = .next (failedWith .outOfBounds n s.phase s)) ∧
    exec .tell s = .next { s with opResult := some (.number s.pos) } ∧
    (s.pos + n ≤ s.buf.len → exec (.skip n) s = .next { s with pos := s.pos + n }) ∧
    (s.buf.len < s.pos + n → exec (.skip n) s = .next (failedWith .outOfBounds (s.pos + n) s.phase s))

/-- A cursor operation that raises `OutOfBounds` changes nothing but the fault record, the status and the phase; the
value it carries is the position it needed to reach, beyond the buffer (R139, R140). -/
def Obligations.FailedCursorOperationChangesNothing : Prop :=
  ∀ (i : Instr) (s t : State), isCursor i = true → s.status ≠ .failed → exec i s = .next t → t.status = .failed →
    s.buf.len < cursorTarget i s ∧ t = failedWith .outOfBounds (cursorTarget i s) s.phase s

/-- `pos ≤ L` holds after reset and every cursor operation keeps it, and none changes the buffer (R138). -/
def Obligations.CursorStaysInTheBuffer : Prop :=
  State.reset.pos ≤ State.reset.buf.len ∧
  ∀ (i : Instr) (s t : State), isCursor i = true → s.pos ≤ s.buf.len → exec i s = .next t →
    t.buf = s.buf ∧ t.pos ≤ t.buf.len

/-- The `u8` at `a + k` is bits `8k+7:8k` of the `u32` at `a`, and of the `u16` (R62). -/
def Obligations.FieldsAndBytesAgree : Prop :=
  ∀ (m : Memory) (a : Nat),
    (∀ k, k < 4 → (m.u32At a).extractLsb' (8 * k) 8 = m.byteAt (a + k)) ∧
    (∀ k, k < 2 → (m.u16At a).extractLsb' (8 * k) 8 = m.byteAt (a + k))

/-- No operation reads a byte before the cursor or at or beyond the cursor position it leaves: with any other buffer of
the same length that agrees on the bytes consumed, it does the same (R52, R137). START is not among them: it changes the
buffer. -/
def Obligations.OnlyConsumedBytesMatter : Prop :=
  ∀ (i : Instr) (s t : State) (m : Memory), i ≠ .start → exec i s = .next t → m.len = s.buf.len →
    (∀ a, s.pos ≤ a → a < t.pos → m.byteAt a = s.buf.byteAt a) →
    exec i { s with buf := m } = .next { t with buf := m }

/-! ### Header steps -/

/-- H_SIG (R152). -/
def Obligations.SignatureIsChecked : Prop :=
  decode (.ph 1) = .ok .hSig ∧
  ∀ s : State,
    (s.buf.len < s.pos + 2 → exec .hSig s = .next (failedWith .outOfBounds (s.pos + 2) 1 s)) ∧
    (s.pos + 2 ≤ s.buf.len → s.buf.byteAt s.pos = 0x42 → s.buf.byteAt (s.pos + 1) = 0x4D →
      exec .hSig s = .next { s with pos := s.pos + 2, phase := 2 }) ∧
    (s.pos + 2 ≤ s.buf.len → ¬ (s.buf.byteAt s.pos = 0x42 ∧ s.buf.byteAt (s.pos + 1) = 0x4D) →
      exec .hSig s = .next (failedWith .formatError (num16 s s.pos) 1 { s with pos := s.pos + 2 }))

/-- The eleven plain header steps (R153, R155 to R165): each reads its field, writes its register with the value
unchanged and goes to the next step; or takes `OutOfBounds`. -/
def Obligations.PlainHeaderStepsStoreTheirField : Prop :=
  (∀ p ∈ plain32, decode (.ph p.code) = .ok p.instr ∧
    ∀ s : State,
      (s.pos + 4 ≤ s.buf.len →
        ∃ v : U32, v.toNat = num32 s s.pos ∧
          exec p.instr s = .next { s with pos := s.pos + 4, md := p.write s.md v, phase := p.next }) ∧
      (s.buf.len < s.pos + 4 → exec p.instr s = .next (failedWith .outOfBounds (s.pos + 4) p.code s))) ∧
  (∀ p ∈ plain16, decode (.ph p.code) = .ok p.instr ∧
    ∀ s : State,
      (s.pos + 2 ≤ s.buf.len →
        ∃ v : U16, v.toNat = num16 s s.pos ∧
          exec p.instr s = .next { s with pos := s.pos + 2, md := p.write s.md v, phase := p.next }) ∧
      (s.buf.len < s.pos + 2 → exec p.instr s = .next (failedWith .outOfBounds (s.pos + 2) p.code s)))

/-- H_RESERVED (R154): every value of the four bytes is accepted and nothing is written. -/
def Obligations.ReservedFieldIsDropped : Prop :=
  decode (.ph 3) = .ok .hReserved ∧
  ∀ s : State,
    (s.pos + 4 ≤ s.buf.len → exec .hReserved s = .next { s with pos := s.pos + 4, phase := 4 }) ∧
    (s.buf.len < s.pos + 4 → exec .hReserved s = .next (failedWith .outOfBounds (s.pos + 4) 3 s))

/-- H_COLORS (R166): a stored 0 becomes `2^bpp` below 32 bpp and stays 0 from 32 on; any other value is kept. -/
def Obligations.ColorCountFallsBack : Prop :=
  decode (.ph 14) = .ok .hColors ∧
  ∀ (s : State) (bpp : U16), s.md.bitsPerPixel = some bpp →
    (s.pos + 4 ≤ s.buf.len →
      ∃ v : U32,
        v.toNat = (if num32 s s.pos ≠ 0 then num32 s s.pos else if bpp.toNat < 32 then 2 ^ bpp.toNat else 0) ∧
        exec .hColors s =
          .next { s with pos := s.pos + 4, md := { s.md with colorsCount := some v }, phase := 15 }) ∧
    (s.buf.len < s.pos + 4 → exec .hColors s = .next (failedWith .outOfBounds (s.pos + 4) 14 s))

/-- H_IMPCOLORS (R167): a stored 0 becomes `md.colorsCount`. -/
def Obligations.ImportantColorCountFallsBack : Prop :=
  decode (.ph 15) = .ok .hImpcolors ∧
  ∀ (s : State) (colors : U32), s.md.colorsCount = some colors →
    (s.pos + 4 ≤ s.buf.len →
      ∃ v : U32,
        v.toNat = (if num32 s s.pos ≠ 0 then num32 s s.pos else colors.toNat) ∧
        exec .hImpcolors s =
          .next { s with pos := s.pos + 4, md := { s.md with importantColorsCount := some v }, phase := 16 }) ∧
    (s.buf.len < s.pos + 4 → exec .hImpcolors s = .next (failedWith .outOfBounds (s.pos + 4) 15 s))

/-- H_PALETTE (R168): up to 8 bpp every entry is read, B, G, R and a skipped byte each, alpha 255; above, nothing; and
with too short a buffer the fault is at the first missing byte, the entries before it being stored. -/
def Obligations.PaletteStepReadsEveryEntry : Prop :=
  decode (.ph 16) = .ok .hPalette ∧
  ∀ (s : State) (bpp : U16) (colors : U32), s.md.bitsPerPixel = some bpp → s.md.colorsCount = some colors →
    (8 < bpp.toNat → exec .hPalette s = .next { s with pal := none, phase := 17 }) ∧
    (bpp.toNat ≤ 8 → s.pos + 4 * colors.toNat ≤ s.buf.len →
      ∃ st : PixelStore,
        exec .hPalette s = .next { s with pos := s.pos + 4 * colors.toNat, pal := some st, phase := 17 } ∧
        st.size = colors.toNat ∧
        ∀ i, i < colors.toNat → st.get i = some
          { red := s.buf.byteAt (s.pos + 4 * i + 2), green := s.buf.byteAt (s.pos + 4 * i + 1)
            blue := s.buf.byteAt (s.pos + 4 * i), alpha := 255 }) ∧
    (bpp.toNat ≤ 8 → s.pos ≤ s.buf.len → s.buf.len < s.pos + 4 * colors.toNat →
      ∃ st : PixelStore,
        exec .hPalette s =
          .next (failedWith .outOfBounds (s.buf.len + 1) 16 { s with pos := s.buf.len, pal := some st }) ∧
        st.size = colors.toNat ∧
        ∀ i, st.get i =
          if i < (s.buf.len - s.pos) / 4 then some
            { red := s.buf.byteAt (s.pos + 4 * i + 2), green := s.buf.byteAt (s.pos + 4 * i + 1)
              blue := s.buf.byteAt (s.pos + 4 * i), alpha := 255 }
          else none)

/-- H_MASKS and the end of the parse (R169, R171): at depth 16 the masks are read in the order r, g, b, whatever the
compression; at any other depth none is; then the metadata are valid and the decoder starts. A mask that does not fit
ends the session with `mdValid` as it was. -/
def Obligations.MaskStepEndsTheParse : Prop :=
  decode (.ph 17) = .ok .hMasks ∧
  ∀ (s : State) (bpp : U16), s.md.bitsPerPixel = some bpp →
    (bpp.toNat ≠ 16 →
      exec .hMasks s =
        .next { s with md := { s.md with maskR := none, maskG := none, maskB := none }, mdValid := true
                       status := .decoding, phase := 18 }) ∧
    (bpp.toNat = 16 → s.pos + 12 ≤ s.buf.len →
      ∃ r g b : U32, r.toNat = num32 s s.pos ∧ g.toNat = num32 s (s.pos + 4) ∧ b.toNat = num32 s (s.pos + 8) ∧
        exec .hMasks s =
          .next { s with pos := s.pos + 12, md := { s.md with maskR := some r, maskG := some g, maskB := some b }
                         mdValid := true, status := .decoding, phase := 18 }) ∧
    (bpp.toNat = 16 → s.buf.len < s.pos + 4 →
      exec .hMasks s = .next (failedWith .outOfBounds (s.pos + 4) 17 s)) ∧
    (bpp.toNat = 16 → s.pos + 4 ≤ s.buf.len → s.buf.len < s.pos + 8 →
      ∃ r : U32, r.toNat = num32 s s.pos ∧
        exec .hMasks s =
          .next (failedWith .outOfBounds (s.pos + 8) 17
            { s with pos := s.pos + 4, md := { s.md with maskR := some r } })) ∧
    (bpp.toNat = 16 → s.pos + 8 ≤ s.buf.len → s.buf.len < s.pos + 12 →
      ∃ r g : U32, r.toNat = num32 s s.pos ∧ g.toNat = num32 s (s.pos + 4) ∧
        exec .hMasks s =
          .next (failedWith .outOfBounds (s.pos + 12) 17
            { s with pos := s.pos + 8, md := { s.md with maskR := some r, maskG := some g } }))

/-! ### Decoder control steps -/

/-- D_CHKCOMP and D_CHKDEPTH (R191, R192). -/
def Obligations.CompressionAndDepthAreChecked : Prop :=
  decode (.ph 18) = .ok .dChkcomp ∧ decode (.ph 19) = .ok .dChkdepth ∧
  (∀ (s : State) (c : U32), s.md.compression = some c →
    (c.toNat = 0 ∨ c.toNat = 3 → exec .dChkcomp s = .next { s with phase := 19 }) ∧
    (c.toNat ≠ 0 → c.toNat ≠ 3 →
      exec .dChkcomp s = .next (failedWith .unsupportedCompression c.toNat 18 s))) ∧
  (∀ (s : State) (bpp : U16), s.md.bitsPerPixel = some bpp →
    (bpp.toNat ∈ [1, 2, 4, 8, 16, 24, 32] → exec .dChkdepth s = .next { s with phase := 20 }) ∧
    (bpp.toNat ∉ [1, 2, 4, 8, 16, 24, 32] →
      exec .dChkdepth s = .next (failedWith .unsupportedDepth bpp.toNat 19 s)))

/-- D_SEEK (R193); and every other step of a run leaves the cursor where it is or moves it forward, whatever the step's
outcome. -/
def Obligations.SeekStepGoesToTheDataOffset : Prop :=
  decode (.ph 20) = .ok .dSeek ∧
  (∀ (s : State) (offset : U32), s.md.dataOffset = some offset →
    (offset.toNat ≤ s.buf.len → exec .dSeek s = .next { s with pos := offset.toNat, phase := 21 }) ∧
    (s.buf.len < offset.toNat → exec .dSeek s = .next (failedWith .outOfBounds offset.toNat 20 s))) ∧
  ∀ s t : State, s.unitCmd = none → 1 ≤ s.phase.toNat → s.phase.toNat ≤ 25 → s.phase ≠ 20 → step s = .next t →
    s.pos ≤ t.pos

/-- D_ALLOC (R194): an output of `width*height` unwritten pixels, and the last output row first; an image beyond
`OUT_CAP` is refused. -/
def Obligations.AllocStepMakesTheOutput : Prop :=
  decode (.ph 21) = .ok .dAlloc ∧
  ∀ (s : State) (w h : U32), s.md.width = some w → s.md.height = some h →
    (outputFits (w.toNat * h.toNat) = true →
      ∃ st : PixelStore, st.size = w.toNat * h.toNat ∧ (∀ i, st.get i = none) ∧
        (0 < h.toNat → ∃ y : U32, y.toNat = h.toNat - 1 ∧
          exec .dAlloc s = .next { s with out := some st, y := some y, phase := 22 }) ∧
        (h.toNat = 0 → exec .dAlloc s = .next { s with out := some st, phase := 25 })) ∧
    (exec .dAlloc s = .refused .outputCapacityExceeded ↔ outputFits (w.toNat * h.toNat) = false)

/-- D_ROWSTART (R196). -/
def Obligations.RowStartResetsTheRow : Prop :=
  decode (.ph 22) = .ok .dRowstart ∧
  ∀ (s : State) (w : U32), s.md.width = some w →
    exec .dRowstart s =
      .next { s with x := some 0, rowBytes := 0, bitsRemaining := 0, phase := if 0 < w.toNat then 23 else 24 }

/-- D_PIXEL (R197): it runs the pixel operation that the depth selects; the pixel that operation returns goes to
`out[y*width + x]` and nowhere else; a fault of it is D_PIXEL's own outcome, with `out` not written. -/
def Obligations.PixelStepRunsTheSelectedOperation : Prop :=
  decode (.ph 23) = .ok .dPixel ∧
  ∀ (s t : State) (f : PixelFormat) (bpp : U16) (w x y : U32) (st : PixelStore),
    s.status = .decoding → s.phase = 23 → s.md.bitsPerPixel = some bpp → formatOfDepth bpp = some f →
    s.md.width = some w → s.x = some x → s.y = some y → s.out = some st →
    y.toNat * w.toNat + x.toNat < st.size → x.toNat < w.toNat → exec (pixelInstr f) s = .next t →
    (∀ p, t.status = .decoding → t.opResult = some (.pixel p) →
      ∃ (st' : PixelStore) (x' : U32),
        exec .dPixel s =
          .next { t with opResult := s.opResult, out := some st', x := some x'
                         phase := if x.toNat + 1 < w.toNat then 23 else 24 } ∧
        x'.toNat = x.toNat + 1 ∧ st'.size = st.size ∧
        (∀ i, st'.get i = if i = y.toNat * w.toNat + x.toNat then some p else st.get i)) ∧
    (t.status = .failed → exec .dPixel s = .next t ∧ t.out = some st)

/-- D_PIXEL completes for every depth (R197 with R220 to R228): with the bytes there, and for the palette depths with the
index in the palette, exactly these registers change. -/
def Obligations.PixelStepCompletes : Prop :=
  ∀ (s : State) (w x y : U32) (st : PixelStore),
    s.md.width = some w → s.x = some x → s.y = some y → s.out = some st →
    y.toNat * w.toNat + x.toNat < st.size →
    let a := s.pos
    let put (p : Rgba8) (t : State) : State :=
      { t with out := some (st.set (y.toNat * w.toNat + x.toNat) p), x := some (x + 1)
               phase := if x.toNat + 1 < w.toNat then 23 else 24 }
    (s.md.bitsPerPixel = some 32 → a + 4 ≤ s.buf.len →
      exec .dPixel s = .next (put ⟨s.buf.byteAt (a + 2), s.buf.byteAt (a + 1), s.buf.byteAt a, s.buf.byteAt (a + 3)⟩
        { s with pos := a + 4, rowBytes := s.rowBytes + 4 })) ∧
    (s.md.bitsPerPixel = some 24 → a + 3 ≤ s.buf.len →
      exec .dPixel s = .next (put ⟨s.buf.byteAt (a + 2), s.buf.byteAt (a + 1), s.buf.byteAt a, 255⟩
        { s with pos := a + 3, rowBytes := s.rowBytes + 3 })) ∧
    (s.md.bitsPerPixel = some 16 → a + 2 ≤ s.buf.len →
      ∃ r g b : Byte,
        exec .dPixel s = .next (put ⟨r, g, b, 255⟩ { s with pos := a + 2, rowBytes := s.rowBytes + 2 })) ∧
    (∀ (colors : U32) (pal : PixelStore) (p : Rgba8), s.md.colorsCount = some colors → s.pal = some pal →
      (s.md.bitsPerPixel = some 8 → a + 1 ≤ s.buf.len → byteNat s a < colors.toNat →
        pal.get (byteNat s a) = some p →
        exec .dPixel s = .next (put p { s with pos := a + 1, rowBytes := s.rowBytes + 1 })) ∧
      (∀ (d : SubDepth) (left : Fin 9), s.md.bitsPerPixel = some (BitVec.ofNat 16 (subBits d)) →
        (s.bitsRemaining = 0 → a + 1 ≤ s.buf.len → byteNat s a >>> (8 - subBits d) < colors.toNat →
          pal.get (byteNat s a >>> (8 - subBits d)) = some p → left.val = 8 - subBits d →
          exec .dPixel s =
            .next (put p { s with pos := a + 1, rowBytes := s.rowBytes + 1, currentByte := s.buf.byteAt a
                                  bitsRemaining := left })) ∧
        (subBits d ≤ s.bitsRemaining.val →
          (s.currentByte.toNat >>> (s.bitsRemaining.val - subBits d)) % 2 ^ subBits d < colors.toNat →
          pal.get ((s.currentByte.toNat >>> (s.bitsRemaining.val - subBits d)) % 2 ^ subBits d) = some p →
          left.val = s.bitsRemaining.val - subBits d →
          exec .dPixel s = .next (put p { s with bitsRemaining := left }))))

/-- D_ROWEND (R198): exactly the padding is skipped, the bit-unpacker is reset, the next row up or the finish follows. -/
def Obligations.RowEndSkipsThePadding : Prop :=
  decode (.ph 24) = .ok .dRowend ∧
  ∀ (s : State) (y : U32) (pad : Nat), s.y = some y → pad < 4 → (s.rowBytes + pad) % 4 = 0 →
    (s.pos + pad ≤ s.buf.len → 0 < y.toNat →
      ∃ y' : U32, y'.toNat = y.toNat - 1 ∧
        exec .dRowend s = .next { s with pos := s.pos + pad, bitsRemaining := 0, y := some y', phase := 22 }) ∧
    (s.pos + pad ≤ s.buf.len → y.toNat = 0 →
      exec .dRowend s = .next { s with pos := s.pos + pad, bitsRemaining := 0, phase := 25 }) ∧
    (s.buf.len < s.pos + pad → exec .dRowend s = .next (failedWith .outOfBounds (s.pos + pad) 24 s))

/-- D_FINISH (R199): the run is done; the profiling record is present or absent as the implementation has it, the same in
every session, and its numbers are draws. How draws are counted is the model's own (assumption 10): nothing is said of
it. -/
def Obligations.FinishEndsTheRun : Prop :=
  decode (.ph 25) = .ok .dFinish ∧
  ∃ present : Bool, ∀ s : State,
    ∃ (prof : Option Prof) (n : Nat), prof.isSome = present ∧
      exec .dFinish s = .next { s with prof := prof, status := .done, phase := 30, draws := n }

/-! ### Pixel operations -/

/-- PX24 and PX32 (R226, R227): bytes B, G, R and A; the fault is at the first missing byte, the bytes before it being
consumed and `rowBytes` not counted. -/
def Obligations.TrueColorPixels : Prop :=
  decode (.bpp 0x0018) = .ok .px24 ∧ decode (.bpp 0x0020) = .ok .px32 ∧
  ∀ s : State,
    (s.pos + 3 ≤ s.buf.len →
      exec .px24 s =
        .next { s with pos := s.pos + 3, rowBytes := s.rowBytes + 3
                       opResult := some (.pixel ⟨s.buf.byteAt (s.pos + 2), s.buf.byteAt (s.pos + 1),
                                                 s.buf.byteAt s.pos, 255⟩) }) ∧
    (s.pos ≤ s.buf.len → s.buf.len < s.pos + 3 →
      exec .px24 s = .next (failedWith .outOfBounds (s.buf.len + 1) s.phase { s with pos := s.buf.len })) ∧
    (s.pos + 4 ≤ s.buf.len →
      exec .px32 s =
        .next { s with pos := s.pos + 4, rowBytes := s.rowBytes + 4
                       opResult := some (.pixel ⟨s.buf.byteAt (s.pos + 2), s.buf.byteAt (s.pos + 1),
                                                 s.buf.byteAt s.pos, s.buf.byteAt (s.pos + 3)⟩) }) ∧
    (s.pos ≤ s.buf.len → s.buf.len < s.pos + 4 →
      exec .px32 s = .next (failedWith .outOfBounds (s.buf.len + 1) s.phase { s with pos := s.buf.len }))

/-- PX16 (R225): mask, fixed shift, and one total function `NARROW8` that is the identity below 256. -/
def Obligations.MaskedPixels : Prop :=
  decode (.bpp 0x0010) = .ok .px16 ∧
  ∃ narrow : Nat → Byte, (∀ v, v < 256 → (narrow v).toNat = v) ∧
    ∀ (s : State) (r g b : U32), s.md.maskR = some r → s.md.maskG = some g → s.md.maskB = some b →
      (s.pos + 2 ≤ s.buf.len →
        exec .px16 s =
          .next { s with pos := s.pos + 2, rowBytes := s.rowBytes + 2
                         opResult := some (.pixel
                           ⟨narrow ((num16 s s.pos &&& r.toNat) / 256), narrow ((num16 s s.pos &&& g.toNat) / 8),
                            narrow ((num16 s s.pos &&& b.toNat) * 8), 255⟩) }) ∧
      (s.buf.len < s.pos + 2 → exec .px16 s = .next (failedWith .outOfBounds (s.pos + 2) s.phase s))

/-- With the canonical 5-6-5 masks no channel needs narrowing: red is `value[15:11] || 000`, green `value[10:5] || 00`,
blue `value[4:0] || 000` (R225, R96). -/
def Obligations.CanonicalMasksNeedNoNarrowing : Prop :=
  ∀ value : U16,
    pixel16 value 0xF800 0x07E0 0x001F =
      { red := value.extractLsb' 11 5 ++ (0 : BitVec 3), green := value.extractLsb' 5 6 ++ (0 : BitVec 2)
        blue := value.extractLsb' 0 5 ++ (0 : BitVec 3), alpha := 255 }

/-- LOOKUP and PX8 (R228, R224): a palette colour, or `PaletteIndexRange` with the index, the byte having been read. That
PX8 has then counted the byte in `rowBytes` is the model's reading of R224's pseudocode (assumption 17, DEDUCED); the
sentence of R231 says otherwise. -/
def Obligations.PaletteLookups : Prop :=
  decode (.bpp 0x0008) = .ok .px8 ∧
  ∀ (s : State) (colors : U32), s.md.colorsCount = some colors →
    (∀ index, colors.toNat ≤ index →
      exec (.lookup index) s = .next (failedWith .paletteIndexRange index s.phase s)) ∧
    (∀ index pal p, index < colors.toNat → s.pal = some pal → pal.get index = some p →
      exec (.lookup index) s = .next { s with opResult := some (.pixel p) }) ∧
    (s.buf.len < s.pos + 1 → exec .px8 s = .next (failedWith .outOfBounds (s.pos + 1) s.phase s)) ∧
    (s.pos + 1 ≤ s.buf.len → colors.toNat ≤ byteNat s s.pos →
      exec .px8 s =
        .next (failedWith .paletteIndexRange (byteNat s s.pos) s.phase
          { s with pos := s.pos + 1, rowBytes := s.rowBytes + 1 })) ∧
    (∀ pal p, s.pos + 1 ≤ s.buf.len → byteNat s s.pos < colors.toNat → s.pal = some pal →
      pal.get (byteNat s s.pos) = some p →
      exec .px8 s =
        .next { s with pos := s.pos + 1, rowBytes := s.rowBytes + 1, opResult := some (.pixel p) })

/-- UNPACK (R220): from `NeedByte` a byte is fetched, then the top bits left are the index, most significant first. -/
def Obligations.UnpackTakesTheTopBits : Prop :=
  ∀ (s : State) (d : SubDepth) (left : Fin 9),
    (s.bitsRemaining = 0 → s.buf.len < s.pos + 1 →
      exec (.unpack d) s = .next (failedWith .outOfBounds (s.pos + 1) s.phase s)) ∧
    (s.bitsRemaining = 0 → s.pos + 1 ≤ s.buf.len → left.val = 8 - subBits d →
      exec (.unpack d) s =
        .next { s with pos := s.pos + 1, rowBytes := s.rowBytes + 1, currentByte := s.buf.byteAt s.pos
                       bitsRemaining := left
                       opResult := some (.number ((s.buf.byteAt s.pos).extractLsb' (8 - subBits d) (subBits d)).toNat) }) ∧
    (subBits d ≤ s.bitsRemaining.val → left.val = s.bitsRemaining.val - subBits d →
      exec (.unpack d) s =
        .next { s with bitsRemaining := left
                       opResult := some (.number
                         (s.currentByte.extractLsb' (s.bitsRemaining.val - subBits d) (subBits d)).toNat) })

/-- PX1, PX2, PX4 (R221, R222, R223) are UNPACK of their depth and then LOOKUP of the index it returns. That
`PaletteIndexRange` is taken in the state UNPACK leaves, a fetched byte counted in `rowBytes`, is the model's reading of
the pseudocode (assumption 17, DEDUCED); the sentence of R231 says otherwise. -/
def Obligations.SubBytePixelsUnpackThenLookUp : Prop :=
  decode (.bpp 0x0001) = .ok .px1 ∧ decode (.bpp 0x0002) = .ok .px2 ∧ decode (.bpp 0x0004) = .ok .px4 ∧
  ∀ (d : SubDepth) (px : Instr), (d, px) ∈ [(.d1, .px1), (.d2, .px2), (.d4, .px4)] →
    ∀ (s : State) (colors : U32), s.md.colorsCount = some colors →
      (s.bitsRemaining = 0 → s.buf.len < s.pos + 1 →
        exec px s = .next (failedWith .outOfBounds (s.pos + 1) s.phase s)) ∧
      (s.bitsRemaining = 0 ∧ s.pos + 1 ≤ s.buf.len ∨ subBits d ≤ s.bitsRemaining.val →
        ∃ (t : State) (index : Nat), index < 2 ^ subBits d ∧
          exec (.unpack d) s = .next { t with opResult := some (.number index) } ∧ t.opResult = s.opResult ∧
          (colors.toNat ≤ index → exec px s = .next (failedWith .paletteIndexRange index s.phase t)) ∧
          (∀ pal p, index < colors.toNat → s.pal = some pal → pal.get index = some p →
            exec px s = .next { t with opResult := some (.pixel p) }))

/-! ### Host commands -/

/-- START (R252). -/
def Obligations.StartOpensASession : Prop :=
  (∀ cmd, opField cmd = 1 → decode (.hc cmd) = .ok .start) ∧
  ∀ s : State,
    (s.status = .idle →
      exec .start s = .next { s with buf := s.source, pos := 0, status := .parsing, phase := 1 }) ∧
    (s.status ≠ .idle → exec .start s = .refused .startOutsideIdle)

/-- RESET (R253, R301): outside a run every register of R20 takes its reset value, and what is no register stays; in
`IDLE` it changes nothing; during a run it is refused. `currentByte` is left out: R301 gives it no value. -/
def Obligations.ResetRestoresEveryRegister : Prop :=
  (∀ cmd, opField cmd = 0 → decode (.hc cmd) = .ok .reset) ∧
  ∀ s : State,
    (s.status = .parsing ∨ s.status = .decoding → exec .reset s = .refused .resetDuringRun) ∧
    (s.status = .idle ∨ s.status = .done ∨ s.status = .failed →
      ∃ t, exec .reset s = .next t ∧
        t.pos = 0 ∧ t.phase = 0 ∧ t.status = .idle ∧ t.mdValid = false ∧
        t.md.fileSize = none ∧ t.md.dataOffset = none ∧ t.md.dibHeaderSize = none ∧ t.md.width = none ∧
        t.md.height = none ∧ t.md.planesCount = none ∧ t.md.bitsPerPixel = none ∧ t.md.compression = none ∧
        t.md.dataSize = none ∧ t.md.resolutionHorz = none ∧ t.md.resolutionVert = none ∧ t.md.colorsCount = none ∧
        t.md.importantColorsCount = none ∧ t.md.maskR = none ∧ t.md.maskG = none ∧ t.md.maskB = none ∧
        t.pal = none ∧ t.y = none ∧ t.x = none ∧ t.bitsRemaining.val = 0 ∧ t.rowBytes = 0 ∧ t.out = none ∧
        t.err = none ∧ t.prof = none ∧
        t.buf = s.buf ∧ t.source = s.source ∧ t.inputs = s.inputs ∧ t.unitCmd = s.unitCmd ∧
        t.opResult = s.opResult ∧ t.hostResult = s.hostResult ∧ t.draws = s.draws) ∧
    (s.Coherent → s.status = .idle → exec .reset s = .next s)

/-- RDREG (R254): which registers can be read when, what is returned, and that every other read is refused. -/
def Obligations.RegisterReads : Prop :=
  (∀ cmd, opField cmd = 2 → decode (.hc cmd) = .ok (.rdreg (cmd.toNat % 2 ^ 32))) ∧
  ∀ s : State,
    let gives (n v : Nat) : Prop := exec (.rdreg n) s = .next (answered (.number v) s)
    let refuses (n : Nat) : Prop := exec (.rdreg n) s = .refused .unreadableRegister
    (∀ code, (s.status, code) ∈ [(Status.idle, 0), (.parsing, 1), (.decoding, 2), (.done, 3), (.failed, 4)] →
      gives 0 code) ∧
    (∀ e code, s.status = .failed → s.err = some e →
      (e.kind, code) ∈ [(ErrKind.formatError, 1), (.unsupportedCompression, 2), (.unsupportedDepth, 3),
        (.outOfBounds, 4), (.paletteIndexRange, 5)] →
      gives 1 code ∧ gives 2 e.info ∧ gives 3 e.pos ∧ gives 22 e.phase.toNat) ∧
    (s.status ≠ .failed → refuses 1 ∧ refuses 2 ∧ refuses 3 ∧ refuses 22) ∧
    (s.mdValid = true →
      (∀ v, s.md.fileSize = some v → gives 4 v.toNat) ∧ (∀ v, s.md.dataOffset = some v → gives 5 v.toNat) ∧
      (∀ v, s.md.dibHeaderSize = some v → gives 6 v.toNat) ∧ (∀ v, s.md.width = some v → gives 7 v.toNat) ∧
      (∀ v, s.md.height = some v → gives 8 v.toNat) ∧ (∀ v, s.md.planesCount = some v → gives 9 v.toNat) ∧
      (∀ v, s.md.bitsPerPixel = some v → gives 10 v.toNat) ∧ (∀ v, s.md.compression = some v → gives 11 v.toNat) ∧
      (∀ v, s.md.dataSize = some v → gives 12 v.toNat) ∧ (∀ v, s.md.resolutionHorz = some v → gives 13 v.toNat) ∧
      (∀ v, s.md.resolutionVert = some v → gives 14 v.toNat) ∧ (∀ v, s.md.colorsCount = some v → gives 15 v.toNat) ∧
      (∀ v, s.md.importantColorsCount = some v → gives 16 v.toNat) ∧
      (s.md.bitsPerPixel = some 16 →
        (∀ v, s.md.maskR = some v → gives 17 v.toNat) ∧ (∀ v, s.md.maskG = some v → gives 18 v.toNat) ∧
        (∀ v, s.md.maskB = some v → gives 19 v.toNat)) ∧
      (s.md.bitsPerPixel ≠ some 16 → ∀ n, 17 ≤ n → n ≤ 19 → refuses n)) ∧
    (s.mdValid = false → ∀ n, 4 ≤ n → n ≤ 19 → refuses n) ∧
    (∀ p, s.status = .done → s.prof = some p → gives 20 p.decodeMillis ∧ gives 21 p.pixelsPerMillisecond) ∧
    (s.status ≠ .done ∨ s.prof = none → refuses 20 ∧ refuses 21) ∧
    (s.status = .done ∨ s.status = .failed → gives 23 s.pos) ∧
    (s.status ≠ .done → s.status ≠ .failed → refuses 23) ∧
    (∀ n, 24 ≤ n → refuses n)

/-- RDPAL (R255) and RDOUT (R256); a physical palette store holds at least the first 256 entries. What is refused is
refused whether or not the registers of the condition have been written: in `IDLE`, during a parse, after a parser fault
(R257). -/
def Obligations.PaletteAndPixelReads : Prop :=
  (∀ cmd, opField cmd = 3 → decode (.hc cmd) = .ok (.rdpal (cmd.toNat % 2 ^ 32))) ∧
  (∀ cmd, opField cmd = 4 → decode (.hc cmd) = .ok (.rdout (cmd.toNat % 2 ^ 32))) ∧
  (∃ cap, 256 ≤ cap ∧ ∀ (s : State) (i : Nat),
    (∀ (bpp : U16) (colors : U32) pal p, s.mdValid = true → s.md.bitsPerPixel = some bpp → bpp.toNat ≤ 8 →
      s.md.colorsCount = some colors → i < colors.toNat → i < cap → s.pal = some pal → pal.get i = some p →
      exec (.rdpal i) s = .next (answered (.pixel p) s)) ∧
    (s.mdValid = false ∨ s.md.bitsPerPixel = none ∨ (∃ bpp, s.md.bitsPerPixel = some bpp ∧ 8 < bpp.toNat) ∨
        (∃ colors, s.md.colorsCount = some colors ∧ colors.toNat ≤ i) ∨ cap ≤ i ∨ s.pal = none ∨
        (∃ pal, s.pal = some pal ∧ pal.get i = none) →
      exec (.rdpal i) s = .refused .unreadablePaletteEntry)) ∧
  ∀ (s : State) (i : Nat),
    (∀ (w h : U32) st p, s.status = .done → s.md.width = some w → s.md.height = some h → i < w.toNat * h.toNat →
      s.out = some st → st.get i = some p → exec (.rdout i) s = .next (answered (.pixel p) s)) ∧
    (s.status ≠ .done ∨ (∃ w h, s.md.width = some w ∧ s.md.height = some h ∧ w.toNat * h.toNat ≤ i) ∨ s.out = none ∨
        (∃ st, s.out = some st ∧ st.get i = none) →
      exec (.rdout i) s = .refused .unreadablePixel)

/-- The reserved codes have no step (R105, R258). -/
def Obligations.ReservedCodesAreRefused : Prop :=
  (∀ cmd, opField cmd = 7 → decode (.cc cmd) = .ok .reservedCc7) ∧
  (∀ cmd, opField cmd = 5 → decode (.hc cmd) = .ok .reservedHc5) ∧
  (∀ cmd, opField cmd = 6 → decode (.hc cmd) = .ok .reservedHc6) ∧
  (∀ cmd, opField cmd = 7 → decode (.hc cmd) = .ok .reservedHc7) ∧
  ∀ s : State,
    exec .reservedCc7 s = .refused .reservedCursorCode ∧ exec .reservedHc5 s = .refused .reservedHostCode5 ∧
    exec .reservedHc6 s = .refused .reservedHostCode6 ∧ exec .reservedHc7 s = .refused .reservedHostCode7

/-! ### Rules of the whole machine -/

/-- Fault entry (R280): whatever operation faults, the record holds the step and the cursor position, the status is
`FAILED`, and every register keeps its value but those that the operations completed within the step have written (R281):
the cursor, which has not moved back; the palette in H_PALETTE; the masks in H_MASKS; and, in a `PaletteIndexRange` only,
the registers of the pixel unit, which then count one byte or none (that `rowBytes` counts it too is assumption 17,
DEDUCED; R231's sentence says otherwise). -/
def Obligations.FaultEntryRecordsTheFault : Prop :=
  ∀ (i : Instr) (s t : State), s.status ≠ .failed → exec i s = .next t → t.status = .failed →
    ∃ e, t.err = some e ∧ e.pos = t.pos ∧ e.phase = faultStep i s ∧ t.phase = 31 ∧
      t.buf = s.buf ∧ t.mdValid = s.mdValid ∧ t.y = s.y ∧ t.x = s.x ∧ t.out = s.out ∧ t.prof = s.prof ∧
      t.source = s.source ∧ t.inputs = s.inputs ∧ t.unitCmd = s.unitCmd ∧ t.opResult = s.opResult ∧
      t.hostResult = s.hostResult ∧ t.draws = s.draws ∧ s.pos ≤ t.pos ∧
      { t.md with maskR := s.md.maskR, maskG := s.md.maskG, maskB := s.md.maskB } = s.md ∧
      (i ≠ .hMasks → t.md = s.md) ∧ (i ≠ .hPalette → t.pal = s.pal) ∧
      (e.kind ≠ .paletteIndexRange →
        t.rowBytes = s.rowBytes ∧ t.bitsRemaining = s.bitsRemaining ∧ t.currentByte = s.currentByte) ∧
      (e.kind = .paletteIndexRange →
        ∃ n, n ≤ 1 ∧ t.pos = s.pos + n ∧ t.rowBytes = s.rowBytes + n ∧
          (t.currentByte = s.currentByte ∨ n = 1 ∧ t.currentByte = s.buf.byteAt s.pos))

/-- Which operation raises which fault, under which condition, and what it carries (R271 to R275). -/
def Obligations.EachFaultHasItsOperations : Prop :=
  ∀ (i : Instr) (s t : State) (e : ErrRecord), s.status ≠ .failed → exec i s = .next t → t.status = .failed →
    t.err = some e →
    (e.kind = .formatError →
      i = .hSig ∧ s.pos + 2 ≤ s.buf.len ∧ ¬ (s.buf.byteAt s.pos = 0x42 ∧ s.buf.byteAt (s.pos + 1) = 0x4D) ∧
      e.info = num16 s s.pos) ∧
    (e.kind = .unsupportedCompression →
      i = .dChkcomp ∧ s.md.compression ≠ some 0 ∧ s.md.compression ≠ some 3 ∧
      ∀ c, s.md.compression = some c → e.info = c.toNat) ∧
    (e.kind = .unsupportedDepth →
      i = .dChkdepth ∧ (∀ bpp ∈ [1, 2, 4, 8, 16, 24, 32], s.md.bitsPerPixel ≠ some bpp) ∧
      ∀ bpp, s.md.bitsPerPixel = some bpp → e.info = bpp.toNat) ∧
    (e.kind = .outOfBounds → accessesBuffer i = true ∧ s.buf.len < e.info) ∧
    (e.kind = .paletteIndexRange →
      (i = .px1 ∨ i = .px2 ∨ i = .px4 ∨ i = .px8 ∨ i = .dPixel ∨ ∃ n, i = .lookup n) ∧
      s.colorsCount.toNat ≤ e.info)

/-- No step leaves `DONE` or `FAILED` but the host's RESET, and until then the fault record, the metadata and the output
stay (R49, R282, R40). -/
def Obligations.TerminalStatusEndsOnlyByReset : Prop :=
  ∀ s t : State, s.Coherent → s.status = .done ∨ s.status = .failed → step s = .next t →
    (t.status = s.status ∧ t.err = s.err ∧ t.md = s.md ∧ t.pal = s.pal ∧ t.out = s.out ∧ t.pos = s.pos ∧
      t.mdValid = s.mdValid ∧ t.prof = s.prof ∧ t.buf = s.buf) ∨
    wasReset s t

/-- After the parse no step writes a metadata register, a mask or a palette entry; only the host's RESET ends them (R40). -/
def Obligations.MetadataAreImmutableAfterTheParse : Prop :=
  ∀ s t : State, s.Coherent → s.mdValid = true → step s = .next t →
    (t.md = s.md ∧ t.pal = s.pal ∧ t.mdValid = true) ∨ wasReset s t

/-- No operation of a session writes the buffer (R61, R69, R76); START hands over the next one. -/
def Obligations.BufferIsNeverWritten : Prop :=
  ∀ (i : Instr) (s t : State), exec i s = .next t → t.buf = (if i = .start then s.source else s.buf)

/-- Only D_ALLOC, D_PIXEL and RESET touch the output, and D_PIXEL only the entry at `y*width + x` (R46, R69, R78). -/
def Obligations.OnlyPixelStepsWriteTheOutput : Prop :=
  (∀ (i : Instr) (s t : State), exec i s = .next t → i ≠ .dAlloc → i ≠ .dPixel → i ≠ .reset → t.out = s.out) ∧
  (∀ (s t : State) (st : PixelStore), exec .dPixel s = .next t → s.out = some st →
    ∃ st', t.out = some st' ∧ st'.size = st.size ∧ ∀ j, j ≠ s.outIndex → st'.get j = st.get j)

/-- `md.compression` has no effect beyond D_CHKCOMP (R202): every other decoder step and pixel operation does the same
with any other value in it. -/
def Obligations.CompressionHasNoFurtherEffect : Prop :=
  ∀ (i : Instr) (s : State) (c : Option U32),
    i ∈ [.hDatasize, .hResh, .hResv, .hColors, .hImpcolors, .hPalette, .hMasks, .dChkdepth, .dSeek, .dAlloc, .dRowstart,
      .dPixel, .dRowend, .dFinish, .px1, .px2, .px4, .px8, .px16, .px24, .px32] →
    exec i { s with md := { s.md with compression := c } } =
      mapNext (fun t => { t with md := { t.md with compression := c } }) (exec i s)

/-! ### Invariants -/

/-- After reset the memories are canonical and the registers coherent with an empty session. -/
def Obligations.ResetStateIsConsistent : Prop :=
  State.reset.Canonical ∧ State.reset.Decoded

/-- Every step keeps every memory in its canonical form and the cursor in its buffer, in every state. -/
def Obligations.StepsKeepMemoriesCanonical : Prop :=
  ∀ s t : State, s.Canonical → step s = .next t → t.Canonical

/-- Every step keeps the control registers coherent. -/
def Obligations.StepsKeepControlCoherent : Prop :=
  ∀ s t : State, s.Coherent → step s = .next t → t.Coherent

/-- Every step keeps the metadata equal to the fields of the session's buffer that have been parsed (R173). -/
def Obligations.StepsKeepMetadataTrueToTheBuffer : Prop :=
  ∀ s t : State, s.Parsed → step s = .next t → t.Parsed

/-- Every step of the decode keeps the output equal to the pure reading of the pixel array, as far as it has come
(R201). -/
def Obligations.StepsKeepOutputTrueToTheBuffer : Prop :=
  ∀ s t : State, s.Decoded → step s = .next t → t.Decoded

/-- In `DONE` the host reads, for every column and row, the pixel that the pixel array holds there (R201, R256). -/
def Obligations.DoneImageIsThePixelArray : Prop :=
  ∀ (s : State) (f : PixelFormat) (x y : Nat), s.Decoded → s.status = .done →
    formatOfDepth s.buf.depth = some f → x < s.buf.width → y < s.buf.height →
    exec (.rdout (y * s.buf.width + x)) s =
      .next (answered (.pixel (s.buf.pixelAt f (s.buf.rowStart f y) x)) s)

/-- The result of a session in `DONE` (R47): width, height and all `width*height` pixels in row-major order. -/
def Obligations.DecodedImageIsComplete : Prop :=
  ∀ (s : State) (f : PixelFormat), s.Decoded → s.status = .done → formatOfDepth s.buf.depth = some f →
    ∃ image, s.decodedImage = some image ∧
      image.width.toNat = s.buf.width ∧ image.height.toNat = s.buf.height ∧ image.profiling = s.prof ∧
      image.pixels.length = s.buf.width * s.buf.height ∧
      ∀ x y, x < s.buf.width → y < s.buf.height →
        image.pixels[y * s.buf.width + x]? = some (s.buf.pixelAt f (s.buf.rowStart f y) x)

/-- A run is never stuck (R203): the engine has a step in every state of a run, the one exception being D_ALLOC for an
image that the output space cannot hold. -/
def Obligations.RunIsNeverStuck : Prop :=
  ∀ s : State, s.Decoded → s.status = .parsing ∨ s.status = .decoding →
    (∃ t, step s = .next t) ∨
    (s.phase = Phase.dAlloc ∧ outputFits (s.buf.width * s.buf.height) = false ∧
      step s = .refused .outputCapacityExceeded)

/-- Every step of a run either faults or brings the run one step nearer to `DONE` (R310, R203). -/
def Obligations.EveryStepBringsTheEndNearer : Prop :=
  (∀ s : State, s.phase = Phase.hSig → s.stepsLeft = 17 + 4 + s.buf.height * (s.buf.width + 2) + 1) ∧
  (∀ s t : State, s.Decoded → s.status = .parsing ∨ s.status = .decoding → step s = .next t → t.status ≠ .failed →
    t.buf = s.buf ∧ s.stepsLeft = t.stepsLeft + 1) ∧
  (∀ s : State, s.Decoded → s.status = .parsing ∨ s.status = .decoding → 0 < s.stepsLeft)

/-- A run whose buffer holds header and pixel array meets no `OutOfBounds`, whatever else is wrong with it; and if
signature, compression, depth and palette indexes are in order too, no step faults, the one stop being D_ALLOC for an image
that the output space cannot hold, and the step that ends the run leaves the cursor at the end of the pixel array
(R201). -/
def Obligations.CoveredRunTakesNoFault : Prop :=
  (∀ (s t : State) (e : ErrRecord), s.Decoded → s.status = .parsing ∨ s.status = .decoding → s.buf.Covered →
    step s = .next t → t.err = some e → e.kind ≠ .outOfBounds) ∧
  (∀ (s : State) (f : PixelFormat), s.Decoded → s.status = .parsing ∨ s.status = .decoding → s.buf.Decodable f →
    (∃ t, step s = .next t ∧ t.status ≠ .failed ∧ (t.status = .done → t.pos = s.buf.pixelsEnd f)) ∨
    (s.phase = Phase.dAlloc ∧ outputFits (s.buf.width * s.buf.height) = false ∧
      step s = .refused .outputCapacityExceeded))

/-- Under the launch premise on `POS_W` no position that a run computes is lost (R8, D2). -/
def Obligations.PositionsFitTheRegister : Prop :=
  ∀ s t : State, s.Decoded → s.PositionFits → s.status = .parsing ∨ s.status = .decoding → step s = .next t →
    t.pos < 2 ^ Config.posW ∧
    ∀ e, t.err = some e → e.kind = .outOfBounds → e.info < 2 ^ Config.posW

/-! ### Geometry and layout -/

/-- The stride is the least multiple of 4 not below the row's bytes, `ceil(width*bpp/8)` (R99). -/
def Obligations.StrideIsTheLeastMultipleOfFour : Prop :=
  ∀ width bpp : Nat,
    8 * rowLength width bpp < width * bpp + 8 ∧ width * bpp ≤ 8 * rowLength width bpp ∧
    stride width bpp % 4 = 0 ∧ rowLength width bpp ≤ stride width bpp ∧ stride width bpp < rowLength width bpp + 4

/-- A store read by bytes (R101): pixel `i` is the bytes red, green, blue, alpha at `4*i` to `4*i + 3`. -/
def Obligations.PixelsAreFourBytesEach : Prop :=
  ∀ (st : PixelStore) (i : Nat) (p : Rgba8), st.get i = some p →
    st.byteAt (4 * i) = some p.red ∧ st.byteAt (4 * i + 1) = some p.green ∧
    st.byteAt (4 * i + 2) = some p.blue ∧ st.byteAt (4 * i + 3) = some p.alpha
end

