-- ==== Sys2Proof/Laws/Cells.lean ====
section
/-! SUPPORT. The laws of the memories: a read after a write, that a write leaves every other entry alone, that every
operation keeps the canonical form, and that equal contents are equal data. -/
namespace Sys2Proof.Machine

variable {α : Type}

/-! ### Lists of cells -/

@[simp] theorem cellGet_cellSet_same (l : List (Nat × α)) (a : Nat) (v : α) : cellGet (cellSet l a v) a = some v := by
  induction l with
  | nil => simp [cellSet, cellGet]
  | cons c rest ih =>
    obtain ⟨k, w⟩ := c
    by_cases h1 : a < k
    · simp [cellSet, cellGet, h1]
    · by_cases h2 : a = k
      · simp [cellSet, cellGet, h2]
      · have h3 : ¬ k = a := fun h => h2 h.symm
        simp [cellSet, cellGet, h1, h2, h3, ih]

theorem cellGet_cellSet_other (l : List (Nat × α)) (a b : Nat) (v : α) (h : b ≠ a) :
    cellGet (cellSet l a v) b = cellGet l b := by
  have hab : ¬ a = b := fun h' => h h'.symm
  induction l with
  | nil => simp [cellSet, cellGet, hab]
  | cons c rest ih =>
    obtain ⟨k, w⟩ := c
    by_cases h1 : a < k
    · simp [cellSet, cellGet, h1, hab]
    · by_cases h2 : a = k
      · subst h2; simp [cellSet, cellGet, hab]
      · simp only [cellSet, h1, h2, if_false, cellGet, ih]

theorem cellsRising_mono (l : List (Nat × α)) {lo lo' : Nat} (h : lo' ≤ lo) (hr : cellsRising l lo = true) :
    cellsRising l lo' = true := by
  cases l with
  | nil => rfl
  | cons c rest =>
    simp only [cellsRising, Bool.and_eq_true, decide_eq_true_eq] at hr ⊢
    exact ⟨by omega, hr.2⟩

theorem cellsRising_cellSet (l : List (Nat × α)) (lo a : Nat) (v : α) (hr : cellsRising l lo = true) (ha : lo ≤ a) :
    cellsRising (cellSet l a v) lo = true := by
  induction l generalizing lo with
  | nil => simp [cellSet, cellsRising, ha]
  | cons c rest ih =>
    obtain ⟨k, w⟩ := c
    simp only [cellsRising, Bool.and_eq_true, decide_eq_true_eq] at hr
    by_cases h1 : a < k
    · simp [cellSet, cellsRising, h1, ha, hr.2]
    · by_cases h2 : a = k
      · subst h2; simp [cellSet, cellsRising, ha, hr.2]
      · simp [cellSet, cellsRising, h1, h2, hr.1, ih (k + 1) hr.2 (by omega)]

theorem cellSet_all (l : List (Nat × α)) (p : Nat × α → Bool) (a : Nat) (v : α) (hl : l.all p = true)
    (hp : p (a, v) = true) : (cellSet l a v).all p = true := by
  induction l with
  | nil => simp [cellSet, hp]
  | cons c rest ih =>
    obtain ⟨k, w⟩ := c
    simp only [List.all_cons, Bool.and_eq_true] at hl
    by_cases h1 : a < k
    · simp only [cellSet, h1, if_true, List.all_cons, hp, hl.1, hl.2, Bool.and_self]
    · by_cases h2 : a = k
      · simp only [cellSet, h2, Nat.lt_irrefl, if_false, if_true, List.all_cons, hl.2, Bool.and_true]
        exact h2 ▸ hp
      · simp only [cellSet, h1, h2, if_false, List.all_cons, hl.1, ih hl.2, Bool.and_self]

/-- Below the first key nothing is listed. -/
theorem cellGet_below (l : List (Nat × α)) (lo a : Nat) (hr : cellsRising l lo = true) (ha : a < lo) :
    cellGet l a = none := by
  induction l generalizing lo with
  | nil => rfl
  | cons c rest ih =>
    obtain ⟨k, w⟩ := c
    simp only [cellsRising, Bool.and_eq_true, decide_eq_true_eq] at hr
    have hk : ¬ k = a := by omega
    simp [cellGet, hk, ih (k + 1) hr.2 (by omega)]

/-- Rising lists with the same contents are the same list. -/
theorem cells_ext (l l' : List (Nat × α)) (lo : Nat) (h : cellsRising l lo = true) (h' : cellsRising l' lo = true)
    (he : ∀ a, cellGet l a = cellGet l' a) : l = l' := by
  induction l generalizing l' lo with
  | nil =>
    cases l' with
    | nil => rfl
    | cons c rest => exact absurd (he c.1) (by simp [cellGet])
  | cons c rest ih =>
    obtain ⟨k, w⟩ := c
    cases l' with
    | nil => exact absurd (he k) (by simp [cellGet])
    | cons c' rest' =>
      obtain ⟨k', w'⟩ := c'
      simp only [cellsRising, Bool.and_eq_true, decide_eq_true_eq] at h h'
      have hkk : k = k' := by
        rcases Nat.lt_trichotomy k k' with hlt | heq | hgt
        · have := he k
          have hne : ¬ k' = k := by omega
          simp [cellGet, hne, cellGet_below rest' (k' + 1) k h'.2 (by omega)] at this
        · exact heq
        · have := he k'
          have hne : ¬ k = k' := by omega
          simp [cellGet, hne, cellGet_below rest (k + 1) k' h.2 (by omega)] at this
      subst hkk
      have hw : w = w' := by have := he k; simpa [cellGet] using this
      subst hw
      have hrest : rest = rest' := by
        refine ih rest' (k + 1) h.2 h'.2 fun a => ?_
        by_cases hka : k = a
        · subst hka
          rw [cellGet_below rest (k + 1) k h.2 (by omega), cellGet_below rest' (k + 1) k h'.2 (by omega)]
        · have := he a; simpa [cellGet, hka] using this
      rw [hrest]

/-! ### The input buffer -/

theorem cellsOfBytes_zero (b : Byte) (rest : List Byte) (a : Nat) (hb : b = 0) :
    cellsOfBytes (b :: rest) a = cellsOfBytes rest (a + 1) := if_pos hb

theorem cellsOfBytes_nonzero (b : Byte) (rest : List Byte) (a : Nat) (hb : ¬ b = 0) :
    cellsOfBytes (b :: rest) a = (a, b) :: cellsOfBytes rest (a + 1) := if_neg hb

theorem cellsOfBytes_rising (bytes : List Byte) (a : Nat) : cellsRising (cellsOfBytes bytes a) a = true := by
  induction bytes generalizing a with
  | nil => rfl
  | cons b rest ih =>
    by_cases hb : b = 0
    · rw [cellsOfBytes_zero b rest a hb]
      exact cellsRising_mono _ (Nat.le_succ a) (ih (a + 1))
    · simp [cellsOfBytes_nonzero b rest a hb, cellsRising, ih (a + 1)]

theorem cellsOfBytes_all (bytes : List Byte) (a n : Nat) (h : a + bytes.length ≤ n) :
    ((cellsOfBytes bytes a).all fun c => decide (c.1 < n) && (c.2 != 0)) = true := by
  induction bytes generalizing a with
  | nil => rfl
  | cons b rest ih =>
    simp only [List.length_cons] at h
    by_cases hb : b = 0
    · rw [cellsOfBytes_zero b rest a hb]
      exact ih (a + 1) (by omega)
    · simp only [cellsOfBytes_nonzero b rest a hb, hb, List.all_cons, ih (a + 1) (by omega), Bool.and_true,
        Bool.and_eq_true, decide_eq_true_eq, bne_iff_ne, ne_eq, not_false_eq_true, and_true]
      omega

theorem cellGet_cellsOfBytes (bytes : List Byte) (a k : Nat) (h : k < bytes.length) :
    (cellGet (cellsOfBytes bytes a) (a + k)).getD 0 = bytes[k] := by
  induction bytes generalizing a k with
  | nil => simp at h
  | cons b rest ih =>
    simp only [List.length_cons] at h
    cases k with
    | zero =>
      by_cases hb : b = 0
      · have hnone := cellGet_below _ (a + 1) a (cellsOfBytes_rising rest (a + 1)) (by omega)
        rw [cellsOfBytes_zero b rest a hb, show a + 0 = a from rfl, hnone]
        exact hb.symm
      · simp [cellsOfBytes_nonzero b rest a hb, cellGet]
    | succ j =>
      have hj := ih (a + 1) j (by omega)
      have hk : ¬ a = a + (j + 1) := by omega
      have hs : a + 1 + j = a + (j + 1) := by omega
      rw [hs] at hj
      by_cases hb : b = 0
      · simpa [cellsOfBytes_zero b rest a hb] using hj
      · simpa [cellsOfBytes_nonzero b rest a hb, cellGet, hk] using hj

/-- The buffer of a list of bytes is in canonical form. -/
theorem Memory.ofBytes_wf (bytes : List Byte) : (Memory.ofBytes bytes).wf = true := by
  simp only [Memory.wf, Memory.ofBytes, Bool.and_eq_true]
  exact ⟨cellsOfBytes_rising bytes 0, cellsOfBytes_all bytes 0 _ (by omega)⟩

@[simp] theorem Memory.ofBytes_len (bytes : List Byte) : (Memory.ofBytes bytes).len = bytes.length := rfl

/-- It holds those bytes. -/
theorem Memory.ofBytes_byteAt (bytes : List Byte) (k : Nat) (h : k < bytes.length) :
    (Memory.ofBytes bytes).byteAt k = bytes[k] := by
  have := cellGet_cellsOfBytes bytes 0 k h
  simpa [Memory.byteAt, Memory.ofBytes] using this

theorem cellGet_all (l : List (Nat × α)) (p : Nat × α → Bool) (a : Nat) (v : α) (hl : l.all p = true)
    (hg : cellGet l a = some v) : p (a, v) = true := by
  induction l with
  | nil => simp [cellGet] at hg
  | cons c rest ih =>
    obtain ⟨k, w⟩ := c
    simp only [List.all_cons, Bool.and_eq_true] at hl
    by_cases hk : k = a
    · subst hk
      have : w = v := by simpa [cellGet] using hg
      exact this ▸ hl.1
    · exact ih hl.2 (by simpa [cellGet, hk] using hg)

/-- Canonical buffers of the same length and the same bytes are the same data. -/
theorem Memory.ext_of_wf (m m' : Memory) (h : m.wf = true) (h' : m'.wf = true) (hl : m.len = m'.len)
    (hb : ∀ a, a < m.len → m.byteAt a = m'.byteAt a) : m = m' := by
  obtain ⟨n, l⟩ := m
  obtain ⟨n', l'⟩ := m'
  simp only at hl
  subst hl
  simp only [Memory.wf, Bool.and_eq_true] at h h'
  have key : l = l' := by
    refine cells_ext l l' 0 h.1 h'.1 fun a => ?_
    cases hg : cellGet l a with
    | none =>
      cases hg' : cellGet l' a with
      | none => rfl
      | some v' =>
        have hp := cellGet_all l' _ a v' h'.2 hg'
        simp only [Bool.and_eq_true, decide_eq_true_eq, bne_iff_ne] at hp
        have := hb a hp.1
        simp only [Memory.byteAt, hg, hg', Option.getD_none, Option.getD_some] at this
        exact absurd this.symm hp.2
    | some v =>
      have hp := cellGet_all l _ a v h.2 hg
      simp only [Bool.and_eq_true, decide_eq_true_eq, bne_iff_ne] at hp
      have hba := hb a hp.1
      cases hg' : cellGet l' a with
      | none =>
        simp only [Memory.byteAt, hg, hg', Option.getD_none, Option.getD_some] at hba
        exact absurd hba hp.2
      | some v' => simpa [Memory.byteAt, hg, hg'] using hba
  rw [key]

/-! ### The stores -/

theorem PixelStore.alloc_wf (n : Nat) : (PixelStore.alloc n).wf = true := rfl

@[simp] theorem PixelStore.alloc_size (n : Nat) : (PixelStore.alloc n).size = n := rfl

@[simp] theorem PixelStore.alloc_get (n i : Nat) : (PixelStore.alloc n).get i = none := by
  simp [PixelStore.alloc, PixelStore.get, cellGet]

@[simp] theorem PixelStore.set_size (st : PixelStore) (i : Nat) (p : Rgba8) : (st.set i p).size = st.size := by
  unfold PixelStore.set; split <;> rfl

theorem PixelStore.set_wf (st : PixelStore) (i : Nat) (p : Rgba8) (h : st.wf = true) : (st.set i p).wf = true := by
  unfold PixelStore.set
  split
  · rename_i hi
    simp only [PixelStore.wf, Bool.and_eq_true] at h ⊢
    exact ⟨cellsRising_cellSet _ 0 i p h.1 (Nat.zero_le i), cellSet_all _ _ i p h.2 (by simpa using hi)⟩
  · exact h

theorem PixelStore.get_set_same (st : PixelStore) (i : Nat) (p : Rgba8) (h : i < st.size) :
    (st.set i p).get i = some p := by
  simp [PixelStore.set, PixelStore.get, h]

theorem PixelStore.get_set_other (st : PixelStore) (i j : Nat) (p : Rgba8) (h : j ≠ i) :
    (st.set i p).get j = st.get j := by
  unfold PixelStore.set
  split
  · simp [PixelStore.get, cellGet_cellSet_other _ _ _ _ h]
  · rfl

end Sys2Proof.Machine
end

