-- ==== Sys2Proof/Laws/Decode.lean ====
section
/-! SUPPORT. The fields of a packed command word. -/
namespace Sys2Proof

@[simp] theorem opField_packCmd (op : BitVec 3) (n : Nat) : opField (packCmd op n) = op := by
  apply BitVec.eq_of_getLsbD_eq
  intro i hi
  simp only [opField, packCmd, BitVec.getLsbD_extractLsb', BitVec.getLsbD_append]
  have h : ¬ 32 + i < 32 := by omega
  simp [hi, h]

theorem argField_packCmd (op : BitVec 3) (n : Nat) (h : n < 2 ^ 32) : argField (packCmd op n) = n := by
  have hx : (packCmd op n).extractLsb' 0 32 = BitVec.ofNat 32 n := by
    apply BitVec.eq_of_getLsbD_eq
    intro i hi
    simp only [packCmd, BitVec.getLsbD_extractLsb', BitVec.getLsbD_append]
    simp [hi]
  rw [argField, hx, BitVec.toNat_ofNat, Nat.mod_eq_of_lt h]

end Sys2Proof
end

