-- ==== Sys2Proof/Laws/State.lean ====
section
/-! SUPPORT. One lemma for each field and each named update of the state, so that no later proof unfolds an update. -/
namespace Sys2Proof.Machine

/-! ### `takeFault` (R280) -/

@[simp] theorem takeFault_buf (r : Raise) (step : BitVec 5) (s : State) : (takeFault r step s).buf = s.buf := rfl
@[simp] theorem takeFault_pos (r : Raise) (step : BitVec 5) (s : State) : (takeFault r step s).pos = s.pos := rfl
@[simp] theorem takeFault_phase (r : Raise) (step : BitVec 5) (s : State) : (takeFault r step s).phase = Phase.failed := rfl
@[simp] theorem takeFault_md (r : Raise) (step : BitVec 5) (s : State) : (takeFault r step s).md = s.md := rfl
@[simp] theorem takeFault_mdValid (r : Raise) (step : BitVec 5) (s : State) : (takeFault r step s).mdValid = s.mdValid := rfl
@[simp] theorem takeFault_pal (r : Raise) (step : BitVec 5) (s : State) : (takeFault r step s).pal = s.pal := rfl
@[simp] theorem takeFault_y (r : Raise) (step : BitVec 5) (s : State) : (takeFault r step s).y = s.y := rfl
@[simp] theorem takeFault_x (r : Raise) (step : BitVec 5) (s : State) : (takeFault r step s).x = s.x := rfl
@[simp] theorem takeFault_bitsRemaining (r : Raise) (step : BitVec 5) (s : State) : (takeFault r step s).bitsRemaining = s.bitsRemaining := rfl
@[simp] theorem takeFault_currentByte (r : Raise) (step : BitVec 5) (s : State) : (takeFault r step s).currentByte = s.currentByte := rfl
@[simp] theorem takeFault_rowBytes (r : Raise) (step : BitVec 5) (s : State) : (takeFault r step s).rowBytes = s.rowBytes := rfl
@[simp] theorem takeFault_out (r : Raise) (step : BitVec 5) (s : State) : (takeFault r step s).out = s.out := rfl
@[simp] theorem takeFault_status (r : Raise) (step : BitVec 5) (s : State) : (takeFault r step s).status = .failed := rfl
@[simp] theorem takeFault_err (r : Raise) (step : BitVec 5) (s : State) : (takeFault r step s).err = some { kind := r.kind, info := r.info, pos := s.pos, phase := step } := rfl
@[simp] theorem takeFault_prof (r : Raise) (step : BitVec 5) (s : State) : (takeFault r step s).prof = s.prof := rfl
@[simp] theorem takeFault_source (r : Raise) (step : BitVec 5) (s : State) : (takeFault r step s).source = s.source := rfl
@[simp] theorem takeFault_inputs (r : Raise) (step : BitVec 5) (s : State) : (takeFault r step s).inputs = s.inputs := rfl
@[simp] theorem takeFault_unitCmd (r : Raise) (step : BitVec 5) (s : State) : (takeFault r step s).unitCmd = s.unitCmd := rfl
@[simp] theorem takeFault_opResult (r : Raise) (step : BitVec 5) (s : State) : (takeFault r step s).opResult = s.opResult := rfl
@[simp] theorem takeFault_hostResult (r : Raise) (step : BitVec 5) (s : State) : (takeFault r step s).hostResult = s.hostResult := rfl
@[simp] theorem takeFault_draws (r : Raise) (step : BitVec 5) (s : State) : (takeFault r step s).draws = s.draws := rfl

/-! ### `startRow` (R196) -/

@[simp] theorem startRow_buf (s : State) : (startRow s).buf = s.buf := rfl
@[simp] theorem startRow_pos (s : State) : (startRow s).pos = s.pos := rfl
@[simp] theorem startRow_phase (s : State) : (startRow s).phase = if s.width = 0 then Phase.dRowend else Phase.dPixel := rfl
@[simp] theorem startRow_md (s : State) : (startRow s).md = s.md := rfl
@[simp] theorem startRow_mdValid (s : State) : (startRow s).mdValid = s.mdValid := rfl
@[simp] theorem startRow_pal (s : State) : (startRow s).pal = s.pal := rfl
@[simp] theorem startRow_y (s : State) : (startRow s).y = s.y := rfl
@[simp] theorem startRow_x (s : State) : (startRow s).x = some 0 := rfl
@[simp] theorem startRow_bitsRemaining (s : State) : (startRow s).bitsRemaining = 0 := rfl
@[simp] theorem startRow_currentByte (s : State) : (startRow s).currentByte = s.currentByte := rfl
@[simp] theorem startRow_rowBytes (s : State) : (startRow s).rowBytes = 0 := rfl
@[simp] theorem startRow_out (s : State) : (startRow s).out = s.out := rfl
@[simp] theorem startRow_status (s : State) : (startRow s).status = s.status := rfl
@[simp] theorem startRow_err (s : State) : (startRow s).err = s.err := rfl
@[simp] theorem startRow_prof (s : State) : (startRow s).prof = s.prof := rfl
@[simp] theorem startRow_source (s : State) : (startRow s).source = s.source := rfl
@[simp] theorem startRow_inputs (s : State) : (startRow s).inputs = s.inputs := rfl
@[simp] theorem startRow_unitCmd (s : State) : (startRow s).unitCmd = s.unitCmd := rfl
@[simp] theorem startRow_opResult (s : State) : (startRow s).opResult = s.opResult := rfl
@[simp] theorem startRow_hostResult (s : State) : (startRow s).hostResult = s.hostResult := rfl
@[simp] theorem startRow_draws (s : State) : (startRow s).draws = s.draws := rfl

/-! ### `finish` (R199) -/

@[simp] theorem finish_buf (s : State) : (finish s).buf = s.buf := rfl
@[simp] theorem finish_pos (s : State) : (finish s).pos = s.pos := rfl
@[simp] theorem finish_phase (s : State) : (finish s).phase = Phase.done := rfl
@[simp] theorem finish_md (s : State) : (finish s).md = s.md := rfl
@[simp] theorem finish_mdValid (s : State) : (finish s).mdValid = s.mdValid := rfl
@[simp] theorem finish_pal (s : State) : (finish s).pal = s.pal := rfl
@[simp] theorem finish_y (s : State) : (finish s).y = s.y := rfl
@[simp] theorem finish_x (s : State) : (finish s).x = s.x := rfl
@[simp] theorem finish_bitsRemaining (s : State) : (finish s).bitsRemaining = s.bitsRemaining := rfl
@[simp] theorem finish_currentByte (s : State) : (finish s).currentByte = s.currentByte := rfl
@[simp] theorem finish_rowBytes (s : State) : (finish s).rowBytes = s.rowBytes := rfl
@[simp] theorem finish_out (s : State) : (finish s).out = s.out := rfl
@[simp] theorem finish_status (s : State) : (finish s).status = .done := rfl
@[simp] theorem finish_err (s : State) : (finish s).err = s.err := rfl
@[simp] theorem finish_prof (s : State) : (finish s).prof = drawProf s.draws := rfl
@[simp] theorem finish_source (s : State) : (finish s).source = s.source := rfl
@[simp] theorem finish_inputs (s : State) : (finish s).inputs = s.inputs := rfl
@[simp] theorem finish_unitCmd (s : State) : (finish s).unitCmd = s.unitCmd := rfl
@[simp] theorem finish_opResult (s : State) : (finish s).opResult = s.opResult := rfl
@[simp] theorem finish_hostResult (s : State) : (finish s).hostResult = s.hostResult := rfl
@[simp] theorem finish_draws (s : State) : (finish s).draws = s.draws + 1 := rfl

/-! ### `startSession` (R252) -/

@[simp] theorem startSession_buf (s : State) : (startSession s).buf = s.source := rfl
@[simp] theorem startSession_pos (s : State) : (startSession s).pos = 0 := rfl
@[simp] theorem startSession_phase (s : State) : (startSession s).phase = Phase.hSig := rfl
@[simp] theorem startSession_md (s : State) : (startSession s).md = s.md := rfl
@[simp] theorem startSession_mdValid (s : State) : (startSession s).mdValid = s.mdValid := rfl
@[simp] theorem startSession_pal (s : State) : (startSession s).pal = s.pal := rfl
@[simp] theorem startSession_y (s : State) : (startSession s).y = s.y := rfl
@[simp] theorem startSession_x (s : State) : (startSession s).x = s.x := rfl
@[simp] theorem startSession_bitsRemaining (s : State) : (startSession s).bitsRemaining = s.bitsRemaining := rfl
@[simp] theorem startSession_currentByte (s : State) : (startSession s).currentByte = s.currentByte := rfl
@[simp] theorem startSession_rowBytes (s : State) : (startSession s).rowBytes = s.rowBytes := rfl
@[simp] theorem startSession_out (s : State) : (startSession s).out = s.out := rfl
@[simp] theorem startSession_status (s : State) : (startSession s).status = .parsing := rfl
@[simp] theorem startSession_err (s : State) : (startSession s).err = s.err := rfl
@[simp] theorem startSession_prof (s : State) : (startSession s).prof = s.prof := rfl
@[simp] theorem startSession_source (s : State) : (startSession s).source = s.source := rfl
@[simp] theorem startSession_inputs (s : State) : (startSession s).inputs = s.inputs := rfl
@[simp] theorem startSession_unitCmd (s : State) : (startSession s).unitCmd = s.unitCmd := rfl
@[simp] theorem startSession_opResult (s : State) : (startSession s).opResult = s.opResult := rfl
@[simp] theorem startSession_hostResult (s : State) : (startSession s).hostResult = s.hostResult := rfl
@[simp] theorem startSession_draws (s : State) : (startSession s).draws = s.draws := rfl

/-! ### `resetRegisters` (R301) -/

@[simp] theorem resetRegisters_buf (s : State) : (resetRegisters s).buf = s.buf := rfl
@[simp] theorem resetRegisters_pos (s : State) : (resetRegisters s).pos = 0 := rfl
@[simp] theorem resetRegisters_phase (s : State) : (resetRegisters s).phase = Phase.idle := rfl
@[simp] theorem resetRegisters_md (s : State) : (resetRegisters s).md = Metadata.unwritten := rfl
@[simp] theorem resetRegisters_mdValid (s : State) : (resetRegisters s).mdValid = false := rfl
@[simp] theorem resetRegisters_pal (s : State) : (resetRegisters s).pal = none := rfl
@[simp] theorem resetRegisters_y (s : State) : (resetRegisters s).y = none := rfl
@[simp] theorem resetRegisters_x (s : State) : (resetRegisters s).x = none := rfl
@[simp] theorem resetRegisters_bitsRemaining (s : State) : (resetRegisters s).bitsRemaining = 0 := rfl
@[simp] theorem resetRegisters_currentByte (s : State) : (resetRegisters s).currentByte = 0 := rfl
@[simp] theorem resetRegisters_rowBytes (s : State) : (resetRegisters s).rowBytes = 0 := rfl
@[simp] theorem resetRegisters_out (s : State) : (resetRegisters s).out = none := rfl
@[simp] theorem resetRegisters_status (s : State) : (resetRegisters s).status = .idle := rfl
@[simp] theorem resetRegisters_err (s : State) : (resetRegisters s).err = none := rfl
@[simp] theorem resetRegisters_prof (s : State) : (resetRegisters s).prof = none := rfl
@[simp] theorem resetRegisters_source (s : State) : (resetRegisters s).source = s.source := rfl
@[simp] theorem resetRegisters_inputs (s : State) : (resetRegisters s).inputs = s.inputs := rfl
@[simp] theorem resetRegisters_unitCmd (s : State) : (resetRegisters s).unitCmd = s.unitCmd := rfl
@[simp] theorem resetRegisters_opResult (s : State) : (resetRegisters s).opResult = s.opResult := rfl
@[simp] theorem resetRegisters_hostResult (s : State) : (resetRegisters s).hostResult = s.hostResult := rfl
@[simp] theorem resetRegisters_draws (s : State) : (resetRegisters s).draws = s.draws := rfl

/-! ### `allocOutput` (R194) -/

@[simp] theorem allocOutput_buf (s : State) : (allocOutput s).buf = s.buf := by
  unfold allocOutput; split <;> rfl
@[simp] theorem allocOutput_pos (s : State) : (allocOutput s).pos = s.pos := by
  unfold allocOutput; split <;> rfl
@[simp] theorem allocOutput_phase (s : State) : (allocOutput s).phase = if s.height = 0 then Phase.dFinish else Phase.dRowstart := by
  unfold allocOutput; split <;> rfl
@[simp] theorem allocOutput_md (s : State) : (allocOutput s).md = s.md := by
  unfold allocOutput; split <;> rfl
@[simp] theorem allocOutput_mdValid (s : State) : (allocOutput s).mdValid = s.mdValid := by
  unfold allocOutput; split <;> rfl
@[simp] theorem allocOutput_pal (s : State) : (allocOutput s).pal = s.pal := by
  unfold allocOutput; split <;> rfl
@[simp] theorem allocOutput_y (s : State) : (allocOutput s).y = if s.height = 0 then s.y else some (s.height - 1) := by
  unfold allocOutput; split <;> rfl
@[simp] theorem allocOutput_x (s : State) : (allocOutput s).x = s.x := by
  unfold allocOutput; split <;> rfl
@[simp] theorem allocOutput_bitsRemaining (s : State) : (allocOutput s).bitsRemaining = s.bitsRemaining := by
  unfold allocOutput; split <;> rfl
@[simp] theorem allocOutput_currentByte (s : State) : (allocOutput s).currentByte = s.currentByte := by
  unfold allocOutput; split <;> rfl
@[simp] theorem allocOutput_rowBytes (s : State) : (allocOutput s).rowBytes = s.rowBytes := by
  unfold allocOutput; split <;> rfl
@[simp] theorem allocOutput_out (s : State) : (allocOutput s).out = some (PixelStore.alloc s.pixelCount) := by
  unfold allocOutput; split <;> rfl
@[simp] theorem allocOutput_status (s : State) : (allocOutput s).status = s.status := by
  unfold allocOutput; split <;> rfl
@[simp] theorem allocOutput_err (s : State) : (allocOutput s).err = s.err := by
  unfold allocOutput; split <;> rfl
@[simp] theorem allocOutput_prof (s : State) : (allocOutput s).prof = s.prof := by
  unfold allocOutput; split <;> rfl
@[simp] theorem allocOutput_source (s : State) : (allocOutput s).source = s.source := by
  unfold allocOutput; split <;> rfl
@[simp] theorem allocOutput_inputs (s : State) : (allocOutput s).inputs = s.inputs := by
  unfold allocOutput; split <;> rfl
@[simp] theorem allocOutput_unitCmd (s : State) : (allocOutput s).unitCmd = s.unitCmd := by
  unfold allocOutput; split <;> rfl
@[simp] theorem allocOutput_opResult (s : State) : (allocOutput s).opResult = s.opResult := by
  unfold allocOutput; split <;> rfl
@[simp] theorem allocOutput_hostResult (s : State) : (allocOutput s).hostResult = s.hostResult := by
  unfold allocOutput; split <;> rfl
@[simp] theorem allocOutput_draws (s : State) : (allocOutput s).draws = s.draws := by
  unfold allocOutput; split <;> rfl

end Sys2Proof.Machine
end

