-- ==== Sys2Proof/Laws/Ops.lean ====
section
/-! SUPPORT. What each shared operation can do, said once: how operations compose, what the cursor operations answer,
which registers the pixel operations and the palette loop may change. -/
namespace Sys2Proof.Machine

variable {α β : Type}

/-! ### Composition -/

theorem op_bind (m : Op α) (f : α → Op β) (s : State) :
    (m >>= f) s = match m s with
      | .ok a s' => f a s'
      | .error r s' => .error r s' := by
  show EStateM.bind m f s = _
  unfold EStateM.bind
  cases m s <;> rfl

theorem op_bind_ok {m : Op α} {f : α → Op β} {s s' : State} {a : α} (h : m s = .ok a s') :
    (m >>= f) s = f a s' := by rw [op_bind, h]

theorem op_bind_error {m : Op α} {f : α → Op β} {s s' : State} {r : Raise} (h : m s = .error r s') :
    (m >>= f) s = .error r s' := by rw [op_bind, h]

/-- `simp` writes `m >>= fun a => pure (f a)` as `f <$> m`. -/
theorem op_map (f : α → β) (m : Op α) (s : State) :
    (f <$> m) s = match m s with
      | .ok a s' => .ok (f a) s'
      | .error r s' => .error r s' := by
  rw [← bind_pure_comp, op_bind]
  cases m s <;> rfl

@[simp] theorem op_pure (a : α) (s : State) : (pure a : Op α) s = .ok a s := rfl

@[simp] theorem op_update (f : State → State) (s : State) : update f s = .ok () (f s) := rfl

@[simp] theorem op_ask (f : State → α) (s : State) : ask f s = .ok (f s) s := rfl

@[simp] theorem op_goto (p : BitVec 5) (s : State) : goto p s = .ok () { s with phase := p } := rfl

@[simp] theorem op_raise (k : ErrKind) (n : Nat) (s : State) : (raise k n : Op α) s = .error ⟨k, n⟩ s := rfl

/-- A composed operation that ends well has gone through a middle state. -/
theorem op_bind_eq_ok {m : Op α} {f : α → Op β} {s t : State} {b : β} (h : (m >>= f) s = .ok b t) :
    ∃ a s', m s = .ok a s' ∧ f a s' = .ok b t := by
  rw [op_bind] at h
  cases hm : m s with
  | ok a s' => rw [hm] at h; exact ⟨a, s', rfl, h⟩
  | error r s' => rw [hm] at h; cases h

/-- A composed operation that raises does so in its first or in its second part. -/
theorem op_bind_eq_error {m : Op α} {f : α → Op β} {s t : State} {r : Raise} (h : (m >>= f) s = .error r t) :
    m s = .error r t ∨ ∃ a s', m s = .ok a s' ∧ f a s' = .error r t := by
  rw [op_bind] at h
  cases hm : m s with
  | ok a s' => rw [hm] at h; exact .inr ⟨a, s', rfl, h⟩
  | error r' s' => rw [hm] at h; cases h; exact .inl rfl

/-! ### Running -/

theorem runStep_ok {op : Op Unit} {s s' : State} {u : Unit} (p : BitVec 5) (h : op s = .ok u s') :
    runStep p op s = s' := by rw [runStep, h]

theorem runStep_error {op : Op Unit} {s s' : State} {r : Raise} (p : BitVec 5) (h : op s = .error r s') :
    runStep p op s = takeFault r p s' := by rw [runStep, h]

theorem runUnit_ok {op : Op Result} {s s' : State} {v : Result} (h : op s = .ok v s') :
    runUnit op s = { s' with opResult := some v } := by rw [runUnit, h]

theorem runUnit_error {op : Op Result} {s s' : State} {r : Raise} (h : op s = .error r s') :
    runUnit op s = takeFault r s.phase s' := by rw [runUnit, h]

/-! ### The cursor operations (R130 to R136) -/

theorem cursorRead_ok (n : Nat) (f : State → α) (s : State) (h : s.pos + n ≤ s.buf.len) :
    cursorRead n f s = .ok (f s) { s with pos := s.pos + n } := if_neg (Nat.not_lt.mpr h)

theorem cursorRead_error (n : Nat) (f : State → α) (s : State) (h : s.buf.len < s.pos + n) :
    cursorRead n f s = .error ⟨.outOfBounds, s.pos + n⟩ s := if_pos h

theorem cursorRead_eq_ok {n : Nat} {f : State → α} {s t : State} {v : α} (h : cursorRead n f s = .ok v t) :
    s.pos + n ≤ s.buf.len ∧ v = f s ∧ t = { s with pos := s.pos + n } := by
  unfold cursorRead at h
  split at h
  · cases h
  · rename_i hn; cases h; exact ⟨Nat.not_lt.mp hn, rfl, rfl⟩

theorem cursorRead_eq_error {n : Nat} {f : State → α} {s t : State} {r : Raise} (h : cursorRead n f s = .error r t) :
    s.buf.len < s.pos + n ∧ r = ⟨.outOfBounds, s.pos + n⟩ ∧ t = s := by
  unfold cursorRead at h
  split at h
  · rename_i hn; cases h; exact ⟨hn, rfl, rfl⟩
  · cases h

theorem seek_ok (p : Nat) (s : State) (h : p ≤ s.buf.len) : seek p s = .ok () { s with pos := p } :=
  if_neg (Nat.not_lt.mpr h)

theorem seek_error (p : Nat) (s : State) (h : s.buf.len < p) : seek p s = .error ⟨.outOfBounds, p⟩ s := if_pos h

theorem seek_eq_ok {p : Nat} {s t : State} {u : Unit} (h : seek p s = .ok u t) :
    p ≤ s.buf.len ∧ t = { s with pos := p } := by
  unfold seek at h
  split at h
  · cases h
  · rename_i hn; cases h; exact ⟨Nat.not_lt.mp hn, rfl⟩

theorem seek_eq_error {p : Nat} {s t : State} {r : Raise} (h : seek p s = .error r t) :
    s.buf.len < p ∧ r = ⟨.outOfBounds, p⟩ ∧ t = s := by
  unfold seek at h
  split at h
  · rename_i hn; cases h; exact ⟨hn, rfl, rfl⟩
  · cases h

/-- SKIP is SEEK to `pos + n` (R136). -/
theorem skip_eq_seek (n : Nat) (s : State) : skip n s = seek (s.pos + n) s := rfl

/-- An operation on an empty buffer's end: one byte is missing (R130). -/
theorem rdu8_error (s : State) (h : s.buf.len < s.pos + 1) : rdu8 s = .error ⟨.outOfBounds, s.pos + 1⟩ s :=
  cursorRead_error 1 _ s h

theorem rdu8_ok (s : State) (h : s.pos + 1 ≤ s.buf.len) :
    rdu8 s = .ok (s.buf.byteAt s.pos) { s with pos := s.pos + 1 } := cursorRead_ok 1 _ s h

theorem rdu16_ok (s : State) (h : s.pos + 2 ≤ s.buf.len) :
    rdu16 s = .ok (s.buf.u16At s.pos) { s with pos := s.pos + 2 } := cursorRead_ok 2 _ s h

theorem rdu16_error (s : State) (h : s.buf.len < s.pos + 2) : rdu16 s = .error ⟨.outOfBounds, s.pos + 2⟩ s :=
  cursorRead_error 2 _ s h

theorem rdu32_ok (s : State) (h : s.pos + 4 ≤ s.buf.len) :
    rdu32 s = .ok (s.buf.u32At s.pos) { s with pos := s.pos + 4 } := cursorRead_ok 4 _ s h

theorem rdu32_error (s : State) (h : s.buf.len < s.pos + 4) : rdu32 s = .error ⟨.outOfBounds, s.pos + 4⟩ s :=
  cursorRead_error 4 _ s h

/-! ### What an operation may change

The cursor operations and the pixel operations change the cursor position and the pixel unit's own registers only. -/

/-- The state an operation leaves, whether it ends well or raises. -/
def endState (op : Op α) (s : State) : State :=
  match op s with
  | .ok _ s' => s'
  | .error _ s' => s'

/-- The state seen without the cursor position and the pixel unit's registers. -/
def State.frame (s : State) : State :=
  { s with pos := 0, rowBytes := 0, bitsRemaining := 0, currentByte := 0 }

/-- The operation changes nothing but the cursor position and the pixel unit's registers. -/
def KeepsFrame (op : Op α) : Prop := ∀ s, (endState op s).frame = s.frame

theorem KeepsFrame.bind {m : Op α} {f : α → Op β} (hm : KeepsFrame m) (hf : ∀ a, KeepsFrame (f a)) :
    KeepsFrame (m >>= f) := by
  intro s
  have h1 := hm s
  unfold endState at h1 ⊢
  rw [op_bind]
  cases hs : m s with
  | ok a s' =>
    have h2 := hf a s'
    rw [hs] at h1
    exact h2.trans h1
  | error r s' => rw [hs] at h1; exact h1

theorem KeepsFrame.pure (a : α) : KeepsFrame (Pure.pure a : Op α) := fun _ => rfl

theorem KeepsFrame.cursorRead (n : Nat) (f : State → α) : KeepsFrame (cursorRead n f) := by
  intro s
  unfold endState Machine.cursorRead
  split
  · rename_i h; split at h <;> cases h; rfl
  · rename_i h; split at h <;> cases h; rfl

theorem KeepsFrame.countRowBytes (n : Nat) : KeepsFrame (countRowBytes n) := fun _ => rfl

theorem KeepsFrame.consumeBits (n : Nat) : KeepsFrame (consumeBits n) := by
  intro s
  unfold endState Machine.consumeBits
  by_cases h : n ≤ s.bitsRemaining.val <;> simp only [h, if_true, if_false] <;> rfl

theorem KeepsFrame.fetchByte : KeepsFrame fetchByte :=
  (KeepsFrame.cursorRead 1 _).bind fun _ => (KeepsFrame.countRowBytes 1).bind fun _ => fun _ => rfl

theorem KeepsFrame.unpack (d : SubDepth) : KeepsFrame (unpack d) := by
  intro s
  unfold endState Machine.unpack
  by_cases h : s.needByte = true
  · simp only [h, if_true]
    exact (KeepsFrame.fetchByte.bind fun _ => KeepsFrame.consumeBits _) s
  · simp only [h]
    exact KeepsFrame.consumeBits _ s

theorem KeepsFrame.lookup (i : Nat) : KeepsFrame (lookup i) := by
  intro s
  unfold endState Machine.lookup
  by_cases h : i ≥ s.colorsCount.toNat <;> simp only [h, if_true, if_false]

/-- No pixel operation changes anything but the cursor position and the pixel unit's registers (R230). -/
theorem pixelOp_keepsFrame (f : PixelFormat) : KeepsFrame (pixelOp f) := by
  cases f with
  | p1 => exact (KeepsFrame.unpack _).bind fun _ => KeepsFrame.lookup _
  | p2 => exact (KeepsFrame.unpack _).bind fun _ => KeepsFrame.lookup _
  | p4 => exact (KeepsFrame.unpack _).bind fun _ => KeepsFrame.lookup _
  | p8 =>
    exact (KeepsFrame.cursorRead 1 _).bind fun _ => (KeepsFrame.countRowBytes 1).bind fun _ => KeepsFrame.lookup _
  | p16 => exact (KeepsFrame.cursorRead 2 _).bind fun _ => (KeepsFrame.countRowBytes 2).bind fun _ => fun _ => rfl
  | p24 =>
    exact (KeepsFrame.cursorRead 1 _).bind fun _ => (KeepsFrame.cursorRead 1 _).bind fun _ =>
      (KeepsFrame.cursorRead 1 _).bind fun _ => (KeepsFrame.countRowBytes 3).bind fun _ => KeepsFrame.pure _
  | p32 =>
    exact (KeepsFrame.cursorRead 1 _).bind fun _ => (KeepsFrame.cursorRead 1 _).bind fun _ =>
      (KeepsFrame.cursorRead 1 _).bind fun _ => (KeepsFrame.cursorRead 1 _).bind fun _ =>
      (KeepsFrame.countRowBytes 4).bind fun _ => KeepsFrame.pure _

/-! ### The cursor moves forward

Every operation but SEEK leaves the cursor where it is or further on, whether it ends well or raises (R193). -/

/-- The operation does not move the cursor back. -/
def MovesForward (op : Op α) : Prop := ∀ s, s.pos ≤ (endState op s).pos

theorem MovesForward.bind {m : Op α} {f : α → Op β} (hm : MovesForward m) (hf : ∀ a, MovesForward (f a)) :
    MovesForward (m >>= f) := by
  intro s
  have h1 := hm s
  unfold endState at h1 ⊢
  rw [op_bind]
  cases hs : m s with
  | ok a s' =>
    have h2 := hf a s'
    rw [hs] at h1
    exact Nat.le_trans h1 h2
  | error r s' => rw [hs] at h1; exact h1

theorem MovesForward.pure (a : α) : MovesForward (Pure.pure a : Op α) := fun _ => Nat.le_refl _

theorem MovesForward.cursorRead (n : Nat) (f : State → α) : MovesForward (cursorRead n f) := by
  intro s
  unfold endState
  by_cases h : s.pos + n ≤ s.buf.len
  · rw [cursorRead_ok n f s h]; exact Nat.le_add_right _ _
  · rw [cursorRead_error n f s (Nat.lt_of_not_le h)]

theorem MovesForward.skip (n : Nat) : MovesForward (skip n) := by
  intro s
  unfold endState
  rw [skip_eq_seek]
  by_cases h : s.pos + n ≤ s.buf.len
  · rw [seek_ok _ s h]; exact Nat.le_add_right _ _
  · rw [seek_error _ s (Nat.lt_of_not_le h)]

theorem MovesForward.unpack (d : SubDepth) : MovesForward (unpack d) := by
  have hc : ∀ n, MovesForward (consumeBits n) := by
    intro n s
    unfold endState Machine.consumeBits
    by_cases h : n ≤ s.bitsRemaining.val <;> simp [h]
  intro s
  unfold endState Machine.unpack
  by_cases h : s.needByte = true
  · simp only [h, if_true]
    exact MovesForward.bind (m := fetchByte)
      ((MovesForward.cursorRead 1 _).bind fun _ => MovesForward.bind (fun _ => Nat.le_refl _) fun _ _ => Nat.le_refl _)
      (fun _ => hc _) s
  · simp only [h]
    exact hc _ s

theorem MovesForward.lookup (i : Nat) : MovesForward (lookup i) := by
  intro s
  unfold endState Machine.lookup
  by_cases h : i ≥ s.colorsCount.toNat <;> simp [h]

/-- No pixel operation moves the cursor back. -/
theorem pixelOp_movesForward (f : PixelFormat) : MovesForward (pixelOp f) := by
  have hr := fun n (g : State → Byte) => MovesForward.cursorRead n g
  cases f with
  | p1 => exact (MovesForward.unpack _).bind fun _ => MovesForward.lookup _
  | p2 => exact (MovesForward.unpack _).bind fun _ => MovesForward.lookup _
  | p4 => exact (MovesForward.unpack _).bind fun _ => MovesForward.lookup _
  | p8 => exact (hr 1 _).bind fun _ => MovesForward.bind (fun _ => Nat.le_refl _) fun _ => MovesForward.lookup _
  | p16 =>
    exact (MovesForward.cursorRead 2 _).bind fun _ => MovesForward.bind (fun _ => Nat.le_refl _) fun _ _ => Nat.le_refl _
  | p24 =>
    exact (hr 1 _).bind fun _ => (hr 1 _).bind fun _ => (hr 1 _).bind fun _ =>
      MovesForward.bind (fun _ => Nat.le_refl _) fun _ => MovesForward.pure _
  | p32 =>
    exact (hr 1 _).bind fun _ => (hr 1 _).bind fun _ => (hr 1 _).bind fun _ => (hr 1 _).bind fun _ =>
      MovesForward.bind (fun _ => Nat.le_refl _) fun _ => MovesForward.pure _

/-! ### The pixel unit: what UNPACK and LOOKUP answer (R220, R228) -/

theorem unpack_fetch (d : SubDepth) (s : State) (h0 : s.bitsRemaining = 0) (h : s.pos + 1 ≤ s.buf.len) :
    unpack d s = .ok (subIndex (s.buf.byteAt s.pos) 8 (subBits d))
      { s with pos := s.pos + 1, rowBytes := s.rowBytes + 1, currentByte := s.buf.byteAt s.pos
               bitsRemaining := ⟨8 - subBits d, by omega⟩ } := by
  have hd : subBits d ≤ 8 := by cases d <;> decide
  simp [unpack, State.needByte, h0, op_bind, fetchByte, rdu8_ok _ h, countRowBytes, consumeBits, hd]

theorem unpack_error (d : SubDepth) (s : State) (h0 : s.bitsRemaining = 0) (h : s.buf.len < s.pos + 1) :
    unpack d s = .error ⟨.outOfBounds, s.pos + 1⟩ s := by
  simp [unpack, State.needByte, h0, op_bind, fetchByte, rdu8_error _ h]

theorem unpack_have (d : SubDepth) (s : State) (h : subBits d ≤ s.bitsRemaining.val) :
    unpack d s = .ok (subIndex s.currentByte s.bitsRemaining.val (subBits d))
      { s with bitsRemaining := ⟨s.bitsRemaining.val - subBits d, by omega⟩ } := by
  have hd : 0 < subBits d := by cases d <;> decide
  have h0 : ¬ s.bitsRemaining = 0 := fun e => by simp [e] at h; omega
  simp [unpack, State.needByte, h0, consumeBits, h]

theorem lookup_ok (i : Nat) (s : State) (h : i < s.colorsCount.toNat) : lookup i s = .ok (s.palEntry i) s :=
  if_neg (Nat.not_le.mpr h)

theorem lookup_error (i : Nat) (s : State) (h : s.colorsCount.toNat ≤ i) :
    lookup i s = .error ⟨.paletteIndexRange, i⟩ s := if_pos h

/-! ### Latin-1 (R133, D28) -/

/-- The character map is one-to-one. -/
theorem latin1_injective (b c : Byte) (h : latin1 b = latin1 c) : b = c := by
  have hb : b.toNat.isValidChar := Or.inl (Nat.lt_trans b.isLt (by decide))
  have hc : c.toNat.isValidChar := Or.inl (Nat.lt_trans c.isLt (by decide))
  have := congrArg Char.toNat h
  unfold latin1 at this
  rw [Char.toNat_ofNat, Char.toNat_ofNat, if_pos hb, if_pos hc] at this
  exact BitVec.eq_of_toNat_eq this

end Sys2Proof.Machine
end

