-- ==== Sys2Proof/Laws/PerInstr.lean ====
section
/-! SUPPORT. The per-instruction family `WordRoundTrip`: the word of a well-formed instruction decodes to it. -/
namespace Sys2Proof.Laws.WordRoundTrip

/-- Every word the encoder gives a well-formed instruction decodes to that instruction. -/
def Statement (i : Instr) : Prop := ∀ w, WellFormed i → encode i = some w → decode w = .ok i

theorem rdu8 : Statement .rdu8 := by
  intro w _ h
  cases h
  simp [decode, decodeCC]

theorem rdu16 : Statement .rdu16 := by
  intro w _ h
  cases h
  simp [decode, decodeCC]

theorem rdu32 : Statement .rdu32 := by
  intro w _ h
  cases h
  simp [decode, decodeCC]

theorem rdstr (n : Nat) : Statement (.rdstr n) := by
  intro w hw h
  cases h
  have hn : n < 2 ^ 32 := by simpa [WellFormed, Instr.wellFormed, argFits] using hw
  simp [decode, decodeCC, argField_packCmd _ _ hn]

theorem seek (p : Nat) : Statement (.seek p) := by
  intro w hw h
  cases h
  have hn : p < 2 ^ 32 := by simpa [WellFormed, Instr.wellFormed, argFits] using hw
  simp [decode, decodeCC, argField_packCmd _ _ hn]

theorem tell : Statement .tell := by
  intro w _ h
  cases h
  simp [decode, decodeCC]

theorem skip (n : Nat) : Statement (.skip n) := by
  intro w hw h
  cases h
  have hn : n < 2 ^ 32 := by simpa [WellFormed, Instr.wellFormed, argFits] using hw
  simp [decode, decodeCC, argField_packCmd _ _ hn]

theorem hSig : Statement .hSig := by
  intro w _ h; cases h; rfl

theorem hFilesize : Statement .hFilesize := by
  intro w _ h; cases h; rfl

theorem hReserved : Statement .hReserved := by
  intro w _ h; cases h; rfl

theorem hDataoffset : Statement .hDataoffset := by
  intro w _ h; cases h; rfl

theorem hDibsize : Statement .hDibsize := by
  intro w _ h; cases h; rfl

theorem hWidth : Statement .hWidth := by
  intro w _ h; cases h; rfl

theorem hHeight : Statement .hHeight := by
  intro w _ h; cases h; rfl

theorem hPlanes : Statement .hPlanes := by
  intro w _ h; cases h; rfl

theorem hBpp : Statement .hBpp := by
  intro w _ h; cases h; rfl

theorem hCompression : Statement .hCompression := by
  intro w _ h; cases h; rfl

theorem hDatasize : Statement .hDatasize := by
  intro w _ h; cases h; rfl

theorem hResh : Statement .hResh := by
  intro w _ h; cases h; rfl

theorem hResv : Statement .hResv := by
  intro w _ h; cases h; rfl

theorem hColors : Statement .hColors := by
  intro w _ h; cases h; rfl

theorem hImpcolors : Statement .hImpcolors := by
  intro w _ h; cases h; rfl

theorem hPalette : Statement .hPalette := by
  intro w _ h; cases h; rfl

theorem hMasks : Statement .hMasks := by
  intro w _ h; cases h; rfl

theorem dChkcomp : Statement .dChkcomp := by
  intro w _ h; cases h; rfl

theorem dChkdepth : Statement .dChkdepth := by
  intro w _ h; cases h; rfl

theorem dSeek : Statement .dSeek := by
  intro w _ h; cases h; rfl

theorem dAlloc : Statement .dAlloc := by
  intro w _ h; cases h; rfl

theorem dRowstart : Statement .dRowstart := by
  intro w _ h; cases h; rfl

theorem dPixel : Statement .dPixel := by
  intro w _ h; cases h; rfl

theorem dRowend : Statement .dRowend := by
  intro w _ h; cases h; rfl

theorem dFinish : Statement .dFinish := by
  intro w _ h; cases h; rfl

theorem px1 : Statement .px1 := by
  intro w _ h; cases h; rfl

theorem px2 : Statement .px2 := by
  intro w _ h; cases h; rfl

theorem px4 : Statement .px4 := by
  intro w _ h; cases h; rfl

theorem px8 : Statement .px8 := by
  intro w _ h; cases h; rfl

theorem px16 : Statement .px16 := by
  intro w _ h; cases h; rfl

theorem px24 : Statement .px24 := by
  intro w _ h; cases h; rfl

theorem px32 : Statement .px32 := by
  intro w _ h; cases h; rfl

theorem unpack (d : SubDepth) : Statement (.unpack d) := by
  intro w _ h; cases h

theorem lookup (index : Nat) : Statement (.lookup index) := by
  intro w _ h; cases h

theorem reset : Statement .reset := by
  intro w _ h
  cases h
  simp [decode, decodeHC]

theorem start : Statement .start := by
  intro w _ h
  cases h
  simp [decode, decodeHC]

theorem rdreg (n : Nat) : Statement (.rdreg n) := by
  intro w hw h
  cases h
  have hn : n < 2 ^ 32 := by simpa [WellFormed, Instr.wellFormed, argFits] using hw
  simp [decode, decodeHC, argField_packCmd _ _ hn]

theorem rdpal (i : Nat) : Statement (.rdpal i) := by
  intro w hw h
  cases h
  have hn : i < 2 ^ 32 := by simpa [WellFormed, Instr.wellFormed, argFits] using hw
  simp [decode, decodeHC, argField_packCmd _ _ hn]

theorem rdout (i : Nat) : Statement (.rdout i) := by
  intro w hw h
  cases h
  have hn : i < 2 ^ 32 := by simpa [WellFormed, Instr.wellFormed, argFits] using hw
  simp [decode, decodeHC, argField_packCmd _ _ hn]

theorem reservedCc7 : Statement .reservedCc7 := by
  intro w _ h
  cases h
  simp [decode, decodeCC]

theorem reservedHc5 : Statement .reservedHc5 := by
  intro w _ h
  cases h
  simp [decode, decodeHC]

theorem reservedHc6 : Statement .reservedHc6 := by
  intro w _ h
  cases h
  simp [decode, decodeHC]

theorem reservedHc7 : Statement .reservedHc7 := by
  intro w _ h
  cases h
  simp [decode, decodeHC]

end Sys2Proof.Laws.WordRoundTrip
end

