-- ==== Sys2Proof/Tests/Slice0.lean ====
section
/-! SUPPORT. The model's own tests and the witnesses of the statements' hypotheses. Every expected value is from the spec:
words written out from 30_encoding.md and 10_state.md R23; results from the vectors `V-…` and programs `P…`, `F…` of
95_test_vectors.md. -/
namespace Sys2Proof.Tests
open Sys2Proof Sys2Proof.Machine Sys2Proof.Statements

/-! ### Helpers -/

/-- What `f` sees of the next state; `none` if there is none. -/
def seen {α : Type} (f : State → α) : Out → Option α
  | .next t => some (f t)
  | .fault _ => none
  | .refused _ => none

/-- Why there is no step. -/
def stopped : Out → Option Refusal
  | .refused r => some r
  | .next _ => none
  | .fault _ => none

/-- The fault of the engine a next state records. -/
def faulted (o : Out) : Option (ErrKind × Nat × Nat × Nat) :=
  (seen (fun t => t.err.map fun e => (e.kind, e.info, e.pos, e.phase.toNat)) o).join

/-- A parse in progress over the given bytes, the cursor at `pos`, in step `step`. -/
def parsing (bytes : List Byte) (pos : Nat) (step : BitVec 5) : State :=
  { State.reset with buf := Memory.ofBytes bytes, pos := pos, status := .parsing, phase := step }

/-- The buffer `Q` of section 2.1. -/
def q : List Byte := [0x11, 0x22, 0x33, 0x44, 0x55, 0x66, 0x77, 0x88]

/-- A decode in progress over the given bytes, cursor at 0, in step `step`, the depth as given. -/
def decoding (bytes : List Byte) (depth : U16) (step : BitVec 5) : State :=
  let s := parsing bytes 0 step
  { s with status := .decoding, mdValid := true, md := { s.md with bitsPerPixel := some depth } }

/-- The same with a palette of two colours (P3). -/
def withPalette (s : State) : State :=
  { s with md := { s.md with colorsCount := some 2 }, pal := some ⟨2, [(0, ⟨0, 0, 0, 255⟩), (1, ⟨255, 255, 255, 255⟩)]⟩ }

/-- The same with masks. -/
def withMasks (r g b : U32) (s : State) : State :=
  { s with md := { s.md with maskR := some r, maskG := some g, maskB := some b } }

/-- The same with an image of `w` by `h`, its output allocated, at column `x` of row `y`. -/
def withImage (w h x y : U32) (s : State) : State :=
  { s with md := { s.md with width := some w, height := some h }, x := some x, y := some y
           out := some (PixelStore.alloc (w.toNat * h.toNat)) }

/-- A number as the result of a unit's operation. -/
def number (n : Nat) : Option Result := some (.number n)

/-- A pixel as the result of a unit's operation. -/
def pixel (r g b a : Byte) : Option Result := some (.pixel ⟨r, g, b, a⟩)

/-! ### Well-formedness -/

theorem test_wf_rdstr_refused : ¬ WellFormed (.rdstr (2 ^ 32)) := by decide
theorem test_wf_seek_refused : ¬ WellFormed (.seek (2 ^ 32)) := by decide
theorem test_wf_skip_refused : ¬ WellFormed (.skip (2 ^ 32)) := by decide
theorem test_wf_rdreg_refused : ¬ WellFormed (.rdreg (2 ^ 32)) := by decide
theorem test_wf_rdpal_refused : ¬ WellFormed (.rdpal (2 ^ 32)) := by decide
theorem test_wf_rdout_refused : ¬ WellFormed (.rdout (2 ^ 32)) := by decide
theorem test_wf_lookup_refused : ¬ WellFormed (.lookup 256) := by decide
theorem test_wf_greatest_operands : WellFormed (.seek (2 ^ 32 - 1)) ∧ WellFormed (.lookup 255) := by decide

/-! ### Decoding: every row's word, written out -/

/-- Format CC, R105: `op || arg`; in RDU8, RDU16, RDU32 and TELL the argument is ignored. -/
theorem test_decode_cursor :
    decode (.cc 0b000_00000000000000000000000000000000#35) = .ok .rdu8 ∧
    decode (.cc 0b001_11111111111111111111111111111111#35) = .ok .rdu16 ∧
    decode (.cc 0b010_00000000000000000000000000000001#35) = .ok .rdu32 ∧
    decode (.cc 0b011_10000000000000000000000000000010#35) = .ok (.rdstr 2147483650) ∧
    decode (.cc 0b100_11111111111111111111111111111111#35) = .ok (.seek 4294967295) ∧
    decode (.cc 0b101_00000000000000000000000000000000#35) = .ok .tell ∧
    decode (.cc 0b110_00000000000000000000000000000011#35) = .ok (.skip 3) ∧
    decode (.cc 0b111_00000000000000000000000000000000#35) = .ok .reservedCc7 := by decide

/-- Format PH, R106 and R23: the header steps. -/
theorem test_decode_header_steps :
    decode (.ph 0b00001#5) = .ok .hSig ∧ decode (.ph 0b00010#5) = .ok .hFilesize ∧
    decode (.ph 0b00011#5) = .ok .hReserved ∧ decode (.ph 0b00100#5) = .ok .hDataoffset ∧
    decode (.ph 0b00101#5) = .ok .hDibsize ∧ decode (.ph 0b00110#5) = .ok .hWidth ∧
    decode (.ph 0b00111#5) = .ok .hHeight ∧ decode (.ph 0b01000#5) = .ok .hPlanes ∧
    decode (.ph 0b01001#5) = .ok .hBpp ∧ decode (.ph 0b01010#5) = .ok .hCompression ∧
    decode (.ph 0b01011#5) = .ok .hDatasize ∧ decode (.ph 0b01100#5) = .ok .hResh ∧
    decode (.ph 0b01101#5) = .ok .hResv ∧ decode (.ph 0b01110#5) = .ok .hColors ∧
    decode (.ph 0b01111#5) = .ok .hImpcolors ∧ decode (.ph 0b10000#5) = .ok .hPalette ∧
    decode (.ph 0b10001#5) = .ok .hMasks := by decide

/-- Format PH: the decoder control steps, and the codes that name no step. -/
theorem test_decode_decoder_steps :
    decode (.ph 0b10010#5) = .ok .dChkcomp ∧ decode (.ph 0b10011#5) = .ok .dChkdepth ∧
    decode (.ph 0b10100#5) = .ok .dSeek ∧ decode (.ph 0b10101#5) = .ok .dAlloc ∧
    decode (.ph 0b10110#5) = .ok .dRowstart ∧ decode (.ph 0b10111#5) = .ok .dPixel ∧
    decode (.ph 0b11000#5) = .ok .dRowend ∧ decode (.ph 0b11001#5) = .ok .dFinish ∧
    decode (.ph 0b00000#5) = .error .phaseNotAStep ∧ decode (.ph 0b11010#5) = .error .phaseUnused ∧
    decode (.ph 0b11101#5) = .error .phaseUnused ∧ decode (.ph 0b11111#5) = .error .phaseNotAStep := by decide

/-- The depth selector, R104: all 16 bits are compared. -/
theorem test_decode_depths :
    decode (.bpp 0b0000000000000001#16) = .ok .px1 ∧ decode (.bpp 0b0000000000000010#16) = .ok .px2 ∧
    decode (.bpp 0b0000000000000100#16) = .ok .px4 ∧ decode (.bpp 0b0000000000001000#16) = .ok .px8 ∧
    decode (.bpp 0b0000000000010000#16) = .ok .px16 ∧ decode (.bpp 0b0000000000011000#16) = .ok .px24 ∧
    decode (.bpp 0b0000000000100000#16) = .ok .px32 ∧ decode (.bpp 0b0000000100000001#16) = .error .depthUnsupported ∧
    decode (.bpp 0b0000000000000000#16) = .error .depthUnsupported := by decide

/-- Format HC, R107. -/
theorem test_decode_host_commands :
    decode (.hc 0b000_00000000000000000000000000000111#35) = .ok .reset ∧
    decode (.hc 0b001_00000000000000000000000000000000#35) = .ok .start ∧
    decode (.hc 0b010_00000000000000000000000000010111#35) = .ok (.rdreg 23) ∧
    decode (.hc 0b011_00000000000000000000000011111111#35) = .ok (.rdpal 255) ∧
    decode (.hc 0b100_10000000000000000000000000000000#35) = .ok (.rdout 2147483648) ∧
    decode (.hc 0b101_00000000000000000000000000000000#35) = .ok .reservedHc5 ∧
    decode (.hc 0b110_00000000000000000000000000000000#35) = .ok .reservedHc6 ∧
    decode (.hc 0b111_00000000000000000000000000000000#35) = .ok .reservedHc7 := by decide

/-- The words as the opcode table numbers them: one of each format (assumption 11). -/
theorem test_table_words :
    decodeTableWord 8 0x16 = some .dRowstart ∧ decodeTableWord 16 0x0018 = some .px24 ∧
    decodeTableWord 40 0x400000001 = some (.rdout 1) := by decide

/-- A placed word is the next one run. -/
theorem test_placed_word_runs : seen (fun t => t.x) (step (State.reset.withFetchWord 8 0x16)) = some (some 0) := rfl

/-- START placed at reset begins a session. -/
theorem test_placed_start : seen (fun t => (t.status, t.phase)) (step (State.reset.withFetchWord 40 0x100000000)) =
    some (.parsing, 1) := by decide

/-! ### Cursor (section 2.1) -/

/-- V-C2, V-C3. -/
theorem test_rdu8 :
    seen (fun t => (t.pos, t.opResult)) (exec .rdu8 (parsing q 7 2)) = some (8, number 0x88) ∧
    faulted (exec .rdu8 (parsing q 8 2)) = some (.outOfBounds, 9, 8, 2) := by decide

/-- V-C5, V-C6. -/
theorem test_rdu16 :
    seen (fun t => (t.pos, t.opResult)) (exec .rdu16 (parsing q 1 8)) = some (3, number 13090) ∧
    faulted (exec .rdu16 (parsing q 7 8)) = some (.outOfBounds, 9, 7, 8) := by decide

/-- V-C8, V-C9. -/
theorem test_rdu32 :
    seen (fun t => (t.pos, t.opResult)) (exec .rdu32 (parsing q 4 2)) = some (8, number 2289526357) ∧
    faulted (exec .rdu32 (parsing q 5 2)) = some (.outOfBounds, 9, 5, 2) := by decide

/-- V-C11, V-C12. -/
theorem test_rdstr :
    seen (fun t => (t.pos, t.opResult)) (exec (.rdstr 2) (parsing q 0 1)) = some (2, some (.text ['\x11', '\x22'])) ∧
    seen (fun t => (t.pos, t.opResult)) (exec (.rdstr 0) (parsing q 8 1)) = some (8, some (.text [])) := by decide

/-- V-C16, V-C22. -/
theorem test_seek :
    seen (fun t => t.pos) (exec (.seek 0) (parsing q 6 20)) = some 0 ∧
    faulted (exec (.seek 4294967295) (parsing q 2 20)) = some (.outOfBounds, 4294967295, 2, 20) := by decide

/-- V-C17. -/
theorem test_tell : seen (fun t => (t.pos, t.opResult)) (exec .tell (parsing q 5 2)) = some (5, number 5) := by decide

/-- V-C18, V-C19. -/
theorem test_skip :
    seen (fun t => t.pos) (exec (.skip 3) (parsing q 5 24)) = some 8 ∧
    faulted (exec (.skip 4) (parsing q 5 24)) = some (.outOfBounds, 9, 5, 24) := by decide

/-- Part 2.1's last line: a buffer of no bytes. -/
theorem test_empty_buffer :
    faulted (exec .rdu8 (parsing [] 0 1)) = some (.outOfBounds, 1, 0, 1) ∧
    seen (fun t => t.pos) (exec (.skip 0) (parsing [] 0 1)) = some 0 := by decide

/-! ### Header steps (section 2.2) -/

/-- V-H1, F1. -/
theorem test_h_sig :
    seen (fun t => (t.pos, t.phase)) (exec .hSig (parsing [0x42, 0x4D] 0 1)) = some (2, 2) ∧
    faulted (exec .hSig (parsing [0x42, 0x41] 0 1)) = some (.formatError, 0x4142, 2, 1) := by decide

/-- V-G1. -/
theorem test_h_sig_short : faulted (exec .hSig (parsing [0x42] 0 1)) = some (.outOfBounds, 2, 0, 1) := by decide

/-- P1, bytes 2 to 5. -/
theorem test_h_filesize :
    seen (fun t => (t.md.fileSize, t.phase)) (exec .hFilesize (parsing [0x3A, 0, 0, 0] 0 2)) = some (some 58, 3) := by
  decide

/-- V-H14. -/
theorem test_h_reserved :
    seen (fun t => (t.pos, t.md, t.phase)) (exec .hReserved (parsing [0xDE, 0xAD, 0xBE, 0xEF] 0 3)) =
      some (4, Metadata.unwritten, 4) := by decide

/-- P1, bytes 10 to 13, and the phase of R151. -/
theorem test_h_dataoffset :
    seen (fun t => (t.md.dataOffset, t.phase)) (exec .hDataoffset (parsing [0x36, 0, 0, 0] 0 4)) = some (some 54, 5) := by
  decide

theorem test_h_dibsize :
    seen (fun t => (t.md.dibHeaderSize, t.phase)) (exec .hDibsize (parsing [0x28, 0, 0, 0] 0 5)) = some (some 40, 6) := by
  decide

theorem test_h_width :
    seen (fun t => (t.md.width, t.phase)) (exec .hWidth (parsing [0x0A, 0, 0, 0] 0 6)) = some (some 10, 7) := by decide

/-- V-H12. -/
theorem test_h_height :
    seen (fun t => (t.md.height, t.phase)) (exec .hHeight (parsing [0xFE, 0xFF, 0xFF, 0xFF] 0 7)) =
      some (some 4294967294, 8) := by decide

/-- V-H13. -/
theorem test_h_planes :
    seen (fun t => (t.md.planesCount, t.phase)) (exec .hPlanes (parsing [7, 0] 0 8)) = some (some 7, 9) := by decide

/-- V-H19: the cut buffer has one byte of the field. -/
theorem test_h_bpp :
    seen (fun t => (t.md.bitsPerPixel, t.phase)) (exec .hBpp (parsing [0x18, 0] 0 9)) = some (some 24, 10) ∧
    faulted (exec .hBpp (parsing [0x18] 0 9)) = some (.outOfBounds, 2, 0, 9) := by decide

theorem test_h_compression :
    seen (fun t => (t.md.compression, t.phase)) (exec .hCompression (parsing [3, 0, 0, 0] 0 10)) = some (some 3, 11) := by
  decide

theorem test_h_datasize :
    seen (fun t => (t.md.dataSize, t.phase)) (exec .hDatasize (parsing [4, 0, 0, 0] 0 11)) = some (some 4, 12) := by decide

theorem test_h_resh :
    seen (fun t => (t.md.resolutionHorz, t.phase)) (exec .hResh (parsing [0x13, 0x0B, 0, 0] 0 12)) =
      some (some 2835, 13) := by decide

theorem test_h_resv :
    seen (fun t => (t.md.resolutionVert, t.phase)) (exec .hResv (parsing [0x13, 0x0B, 0, 0] 0 13)) =
      some (some 2835, 14) := by decide

/-- The state at H_COLORS with the given depth and stored bytes. -/
def colorsState (depth : U16) (bytes : List Byte) : State :=
  let s := parsing bytes 0 14
  { s with md := { s.md with bitsPerPixel := some depth } }

/-- V-H3, V-H5, V-H7. -/
theorem test_h_colors_fallback :
    seen (fun t => t.md.colorsCount) (exec .hColors (colorsState 8 [0, 0, 0, 0])) = some (some 256) ∧
    seen (fun t => t.md.colorsCount) (exec .hColors (colorsState 32 [0, 0, 0, 0])) = some (some 0) ∧
    seen (fun t => t.md.colorsCount) (exec .hColors (colorsState 31 [0, 0, 0, 0])) = some (some 2147483648) := by decide

/-- V-H9, V-H8. -/
theorem test_h_colors_stored :
    seen (fun t => t.md.colorsCount) (exec .hColors (colorsState 8 [0x2C, 1, 0, 0])) = some (some 300) ∧
    seen (fun t => t.md.colorsCount) (exec .hColors (colorsState 40 [0, 0, 0, 0])) = some (some 0) := by decide

/-- The state at H_IMPCOLORS. -/
def impState (colors : U32) (bytes : List Byte) : State :=
  let s := parsing bytes 0 15
  { s with md := { s.md with colorsCount := some colors } }

/-- V-H10, V-H11. -/
theorem test_h_impcolors :
    seen (fun t => t.md.importantColorsCount) (exec .hImpcolors (impState 256 [0, 0, 0, 0])) = some (some 256) ∧
    seen (fun t => t.md.importantColorsCount) (exec .hImpcolors (impState 2 [5, 0, 0, 0])) = some (some 5) := by decide

/-- The state at H_PALETTE. -/
def paletteState (depth : U16) (colors : U32) (bytes : List Byte) : State :=
  let s := colorsState depth bytes
  { s with phase := 16, md := { s.md with colorsCount := some colors } }

/-- V-H15, V-H16. -/
theorem test_h_palette :
    seen (fun t => (t.pos, t.pal)) (exec .hPalette (paletteState 8 1 [0x10, 0x20, 0x30, 0x99])) =
      some (4, some ⟨1, [(0, ⟨0x30, 0x20, 0x10, 255⟩)]⟩) ∧
    seen (fun t => (t.pos, t.pal, t.phase)) (exec .hPalette (paletteState 24 2 [])) = some (0, none, 17) := by decide

/-- V-H21: the last pad byte of a two-entry palette is missing; entry 0 is stored, entry 1 is not. -/
theorem test_h_palette_short :
    faulted (exec .hPalette (paletteState 8 2 [0, 0, 0, 0, 0xFF, 0xFF, 0xFF])) = some (.outOfBounds, 8, 7, 16) ∧
    seen (fun t => t.pal) (exec .hPalette (paletteState 8 2 [0, 0, 0, 0, 0xFF, 0xFF, 0xFF])) =
      some (some ⟨2, [(0, ⟨0, 0, 0, 255⟩)]⟩) := by decide

/-- V-H17: the masks of the file, whatever the compression, and the end of the parse. -/
theorem test_h_masks :
    seen (fun t => (t.md.maskR, t.md.maskG, t.md.maskB))
      (exec .hMasks (colorsState 16 [0x00, 0x7C, 0, 0, 0xE0, 0x03, 0, 0, 0x1F, 0, 0, 0])) =
      some (some 0x7C00, some 0x03E0, some 0x001F) ∧
    seen (fun t => (t.pos, t.mdValid, t.status, t.phase)) (exec .hMasks (colorsState 32 [])) =
      some (0, true, .decoding, 18) := by decide

/-- V-H22: the second mask does not fit. -/
theorem test_h_masks_short :
    faulted (exec .hMasks (colorsState 16 [0, 0xF8, 0, 0, 0xE0, 7])) = some (.outOfBounds, 8, 4, 17) ∧
    seen (fun t => (t.md.maskR, t.md.maskG, t.mdValid)) (exec .hMasks (colorsState 16 [0, 0xF8, 0, 0, 0xE0, 7])) =
      some (some 0xF800, none, false) := by decide

/-! ### Decoder control steps (section 2.3) -/

/-- The state at D_CHKCOMP. -/
def compressionState (c : U32) : State :=
  let s := decoding [] 24 18
  { s with md := { s.md with compression := some c } }

/-- V-D1, V-D2. -/
theorem test_d_chkcomp :
    seen (fun t => t.phase) (exec .dChkcomp (compressionState 3)) = some 19 ∧
    faulted (exec .dChkcomp (compressionState 0xFFFFFFFF)) = some (.unsupportedCompression, 0xFFFFFFFF, 0, 18) := by decide

/-- V-D3, V-D4. -/
theorem test_d_chkdepth :
    seen (fun t => t.phase) (exec .dChkdepth (decoding [] 2 19)) = some 20 ∧
    faulted (exec .dChkdepth (decoding [] 256 19)) = some (.unsupportedDepth, 256, 0, 19) := by decide

/-- The state at D_SEEK. -/
def seekState (offset : U32) : State :=
  let s := decoding q 24 20
  { s with md := { s.md with dataOffset := some offset } }

/-- V-D6, V-D7, with `L = 8`: the offset may be `L`, not more. -/
theorem test_d_seek :
    seen (fun t => (t.pos, t.phase)) (exec .dSeek (seekState 8)) = some (8, 21) ∧
    faulted (exec .dSeek (seekState 9)) = some (.outOfBounds, 9, 0, 20) := by decide

/-- V-D9's effect: 6 entries, `y = 1`. -/
theorem test_d_alloc :
    (allocOutput (withImage 3 2 0 0 (decoding [] 24 21))).out = some ⟨6, []⟩ ∧
    (allocOutput (withImage 3 2 0 0 (decoding [] 24 21))).y = some 1 ∧
    (allocOutput (withImage 2 0 0 0 (decoding [] 24 21))).phase = 25 := by decide

/-- R196; V-D10: a row of width 0 goes to its end at once. -/
theorem test_d_rowstart :
    seen (fun t => (t.x, t.rowBytes, t.phase)) (exec .dRowstart (withImage 3 2 5 1 (decoding [] 24 22))) =
      some (some 0, 0, 23) ∧
    seen (fun t => t.phase) (exec .dRowstart (withImage 0 2 0 1 (decoding [] 24 22))) = some 24 := by decide

/-- V-D14 (P2): the first pixel read goes to entry 3. -/
theorem test_d_pixel :
    seen (fun t => (t.out, t.x, t.phase)) (exec .dPixel (withImage 3 2 0 1 (decoding [1, 2, 3] 24 23))) =
      some (some ⟨6, [(3, ⟨3, 2, 1, 255⟩)]⟩, some 1, 23) := by decide

/-- V-G6: the index 5 in a palette of 2 ends the session, the output as it was. -/
theorem test_d_pixel_range :
    faulted (exec .dPixel (withPalette (withImage 4 1 2 0 (decoding [5, 1] 8 23)))) =
      some (.paletteIndexRange, 5, 1, 23) := by decide

/-- V-D12: `rowBytes` 10 has two bytes of padding; V-D13: the padding must be there. -/
theorem test_d_rowend :
    seen (fun t => (t.pos, t.y, t.phase))
      (exec .dRowend { withImage 10 2 10 1 (decoding [0, 0] 8 24) with rowBytes := 10 }) = some (2, some 0, 22) ∧
    faulted (exec .dRowend { withImage 1 1 1 0 (decoding [] 24 24) with rowBytes := 3 }) =
      some (.outOfBounds, 1, 0, 24) := by decide

/-- The last row (R198), and R220: the bits left are dropped. -/
theorem test_d_rowend_last :
    seen (fun t => (t.bitsRemaining, t.phase))
      (exec .dRowend { withImage 3 2 3 0 (decoding [] 4 24) with rowBytes := 4, bitsRemaining := 4 }) = some (0, 25) := by
  decide

/-- R199. -/
theorem test_d_finish :
    seen (fun t => (t.status, t.phase)) (exec .dFinish (decoding [] 24 25)) = some (.done, 30) := by decide

/-! ### Pixel operations (section 2.4) -/

/-- The state in the middle of a byte. -/
def bitsState (b : Byte) (left : Fin 9) : State := { withPalette (decoding [] 1 23) with currentByte := b, bitsRemaining := left }

/-- V-X1: the first two pixels of byte `A5`. -/
theorem test_px1 :
    seen (fun t => (t.opResult, t.bitsRemaining, t.pos)) (exec .px1 (withPalette (decoding [0xA5] 1 23))) =
      some (pixel 255 255 255 255, 7, 1) ∧
    seen (fun t => (t.opResult, t.bitsRemaining)) (exec .px1 (bitsState 0xA5 7)) = some (pixel 0 0 0 255, 6) := by decide

/-- V-X2: the second pixel of byte `1B` is index 1, the third, 2, is beyond a palette of two. -/
theorem test_px2 :
    seen (fun t => (t.opResult, t.bitsRemaining)) (exec .px2 (bitsState 0x1B 6)) = some (pixel 255 255 255 255, 4) ∧
    faulted (exec .px2 (bitsState 0x1B 4)) = some (.paletteIndexRange, 2, 0, 23) := by decide

/-- V-X3's first index, 10, beyond a palette of two (R279 e: the fetch comes first). -/
theorem test_px4 :
    faulted (exec .px4 (withPalette (decoding [0xAB] 4 23))) = some (.paletteIndexRange, 10, 1, 23) ∧
    seen (fun t => t.opResult) (exec .px4 (bitsState 0x01 4)) = some (pixel 255 255 255 255) := by decide

/-- P3's second pixel. -/
theorem test_px8 :
    seen (fun t => (t.opResult, t.rowBytes)) (exec .px8 (withPalette (decoding [1] 8 23))) =
      some (pixel 255 255 255 255, 1) := by decide

/-- V-X6, V-X11. -/
theorem test_px16 :
    seen (fun t => t.opResult) (exec .px16 (withMasks 0x7C00 0x03E0 0x001F (decoding [0xFF, 0x7F] 16 23))) =
      some (pixel 124 124 248 255) ∧
    seen (fun t => t.opResult) (exec .px16 (withMasks 0xFFFF0000 0x07E0 0x001F (decoding [0xCD, 0xAB] 16 23))) =
      some (pixel 0 120 104 255) := by decide

/-- V-X18. -/
theorem test_px16_short :
    faulted (exec .px16 (withMasks 0xF800 0x07E0 0x001F (decoding [0xFF] 16 23))) = some (.outOfBounds, 2, 0, 23) := by
  decide

/-- V-X12, V-X17. -/
theorem test_px24 :
    seen (fun t => (t.opResult, t.rowBytes)) (exec .px24 (decoding [0x33, 0x22, 0x11] 24 23)) =
      some (pixel 0x11 0x22 0x33 255, 3) ∧
    faulted (exec .px24 (decoding [0x33, 0x22] 24 23)) = some (.outOfBounds, 3, 2, 23) := by decide

/-- V-X14. -/
theorem test_px32 :
    seen (fun t => t.opResult) (exec .px32 (decoding [1, 2, 3, 0] 32 23)) = some (pixel 3 2 1 0) := by decide

/-- S5, V-X3: byte `AB` is 10, then 11. -/
theorem test_unpack :
    seen (fun t => (t.opResult, t.bitsRemaining)) (exec (.unpack .d4) (decoding [0xAB] 4 23)) = some (number 10, 4) ∧
    seen (fun t => (t.opResult, t.bitsRemaining)) (exec (.unpack .d4) (bitsState 0xAB 4)) = some (number 11, 0) := by decide

/-- V-X15, V-X16. -/
theorem test_lookup :
    faulted (exec (.lookup 5) (withPalette (decoding [] 8 23))) = some (.paletteIndexRange, 5, 0, 23) ∧
    seen (fun t => t.opResult) (exec (.lookup 1) (withPalette (decoding [] 8 23))) = some (pixel 255 255 255 255) := by
  decide

/-! ### Host commands (section 2.5) -/

/-- P1 in `DONE`, as far as the commands read it. -/
def p1Done : State :=
  let s := withImage 1 1 1 0 (decoding [] 24 30)
  { s with pos := 58, status := .done, md := { s.md with colorsCount := some 16777216 }
           out := some ⟨1, [(0, ⟨17, 34, 51, 255⟩)]⟩ }

/-- F2 in `FAILED`, as far as the commands read it. -/
def f2Failed : State :=
  { decoding [] 24 31 with status := .failed, pos := 54, err := some ⟨.unsupportedCompression, 1, 54, 18⟩ }

/-- V-S3. -/
theorem test_rdreg_done :
    seen (fun t => t.hostResult) (exec (.rdreg 0) p1Done) = some (number 3) ∧
    seen (fun t => t.hostResult) (exec (.rdreg 7) p1Done) = some (number 1) ∧
    seen (fun t => t.hostResult) (exec (.rdreg 15) p1Done) = some (number 16777216) ∧
    seen (fun t => t.hostResult) (exec (.rdreg 23) p1Done) = some (number 58) := by decide

/-- V-S5, V-S8. -/
theorem test_rdreg_fault :
    stopped (exec (.rdreg 1) p1Done) = some .unreadableRegister ∧
    seen (fun t => t.hostResult) (exec (.rdreg 1) f2Failed) = some (number 2) ∧
    seen (fun t => t.hostResult) (exec (.rdreg 22) f2Failed) = some (number 18) := by decide

/-- V-S6. -/
theorem test_rdpal :
    seen (fun t => t.hostResult) (exec (.rdpal 1) (withPalette (decoding [] 8 30))) = some (pixel 255 255 255 255) ∧
    stopped (exec (.rdpal 2) (withPalette (decoding [] 8 30))) = some .unreadablePaletteEntry := by decide

/-- V-S4. -/
theorem test_rdout :
    seen (fun t => t.hostResult) (exec (.rdout 0) p1Done) = some (pixel 17 34 51 255) ∧
    stopped (exec (.rdout 1) p1Done) = some .unreadablePixel := by decide

/-- R252; V-S10. -/
theorem test_start :
    seen (fun t => (t.status, t.phase, t.buf.len)) (exec .start { State.reset with source := Memory.ofBytes q }) =
      some (.parsing, 1, 8) ∧
    stopped (exec .start p1Done) = some .startOutsideIdle := by decide

/-- V-S11; R253: not during a run. -/
theorem test_reset :
    seen (fun t => (t.status, t.out, t.pos)) (exec .reset p1Done) = some (.idle, none, 0) ∧
    stopped (exec .reset (decoding [] 24 23)) = some .resetDuringRun := by decide

/-- R105, R258, V-S12. -/
theorem test_reserved_codes :
    stopped (exec .reservedCc7 p1Done) = some .reservedCursorCode ∧
    stopped (exec .reservedHc5 p1Done) = some .reservedHostCode5 ∧
    stopped (exec .reservedHc6 p1Done) = some .reservedHostCode6 ∧
    stopped (exec .reservedHc7 p1Done) = some .reservedHostCode7 := by decide

/-! ### Witnesses: states and operands that meet the hypotheses of the statements

One theorem for each statement with hypotheses, each of its clauses met at a boundary. -/

theorem witness_EncodedInstructionDecodesBack :
    WellFormed (.rdout (2 ^ 32 - 1)) ∧ (encode (.rdout (2 ^ 32 - 1))).isSome ∧ WellFormed .hMasks ∧
    (encode .hMasks).isSome ∧ WellFormed .px32 ∧ (encode .px32).isSome := by decide

theorem witness_DecodedWordIsTheEncodedOne :
    decode (.cc 0b000_00000000000000000000000000000001#35) = .ok .rdu8 ∧ decode (.bpp 32) = .ok .px32 ∧
    decode (.ph 25) = .ok .dFinish ∧ decode (.hc 0b111_11111111111111111111111111111111#35) = .ok .reservedHc7 := by decide

/-- A state with a word at a unit, one in a step, one at rest with a command, one at rest with a source. -/
def unitState (c : UnitCmd) : State := { parsing q 0 2 with unitCmd := some c }
def hostState (i : List HostInput) : State := { State.reset with inputs := i }

theorem witness_StepRunsTheDecodedOperation :
    ((unitState (.cursor 0)).unitCmd = some (.cursor 0) ∧ decode (.cc 0) = .ok .rdu8) ∧
    ((unitState (.pixel 24)).unitCmd = some (.pixel 24) ∧ decode (.bpp 24) = .ok .px24) ∧
    ((parsing q 0 25).unitCmd = none ∧ decode (.ph (parsing q 0 25).phase) = .ok .dFinish) ∧
    ((hostState [.command 0]).unitCmd = none ∧ (hostState [.command 0]).phase ∈ [(0 : BitVec 5), 30, 31] ∧
      (hostState [.command 0]).inputs = .command 0 :: [] ∧ decode (.hc 0) = .ok .reset) ∧
    (p1Done.unitCmd = none ∧ p1Done.phase ∈ [(0 : BitVec 5), 30, 31]) := by decide

theorem witness_StepAtRestTakesTheHostsMove :
    (hostState [.present Memory.empty]).unitCmd = none ∧
    (hostState [.present Memory.empty]).phase ∈ [(0 : BitVec 5), 30, 31] ∧
    (hostState [.present Memory.empty]).inputs = .present Memory.empty :: [] ∧
    State.reset.unitCmd = none ∧ State.reset.phase ∈ [(0 : BitVec 5), 30, 31] ∧ State.reset.inputs = [] := by decide

theorem witness_HostCannotAffectARun :
    ((parsing q 0 1).unitCmd = none ∧ 1 ≤ (parsing q 0 1).phase.toNat) ∧
    ((decoding q 24 25).unitCmd = none ∧ (decoding q 24 25).phase.toNat ≤ 25) := by decide

theorem witness_CursorReadsAreLittleEndian :
    opField 0 = 0 ∧ opField 0x1FFFFFFFF = 1 ∧ opField 0x200000000 = 2 ∧
    (parsing q 7 2).pos + 1 ≤ (parsing q 7 2).buf.len ∧ (parsing q 8 2).buf.len < (parsing q 8 2).pos + 1 ∧
    (parsing q 6 2).pos + 2 ≤ (parsing q 6 2).buf.len ∧ (parsing q 7 2).buf.len < (parsing q 7 2).pos + 2 ∧
    (parsing q 4 2).pos + 4 ≤ (parsing q 4 2).buf.len ∧ (parsing q 5 2).buf.len < (parsing q 5 2).pos + 4 := by decide

theorem witness_RdstrReadsLatin1Text :
    opField 0x3FFFFFFFF = 3 ∧ (parsing q 6 1).pos + 2 ≤ (parsing q 6 1).buf.len ∧
    (parsing q 7 1).buf.len < (parsing q 7 1).pos + 2 ∧ (parsing q 8 1).pos + 0 ≤ (parsing q 8 1).buf.len := by decide

theorem witness_SeekTellSkipPositionTheCursor :
    opField 0x4FFFFFFFF = 4 ∧ opField 0x5FFFFFFFF = 5 ∧ opField 0x6FFFFFFFF = 6 ∧
    8 ≤ (parsing q 2 20).buf.len ∧ (parsing q 2 20).buf.len < 9 ∧
    (parsing q 5 24).pos + 3 ≤ (parsing q 5 24).buf.len ∧ (parsing q 5 24).buf.len < (parsing q 5 24).pos + 4 := by decide

theorem witness_FailedCursorOperationChangesNothing :
    isCursor .rdu16 = true ∧ (parsing q 7 2).status ≠ .failed ∧
    seen (fun t => t.status) (exec .rdu16 (parsing q 7 2)) = some .failed := by decide

theorem witness_CursorStaysInTheBuffer :
    isCursor (.skip 0) = true ∧ (parsing q 8 2).pos ≤ (parsing q 8 2).buf.len ∧
    seen (fun t => t.pos) (exec (.skip 0) (parsing q 8 2)) = some 8 := by decide

/-- H_SIG consumes the two bytes of `[42, 4D, 00]`, and any other third byte will do. -/
theorem witness_OnlyConsumedBytesMatter :
    Instr.hSig ≠ .start ∧ seen (fun t => t.pos) (exec .hSig (parsing [0x42, 0x4D, 0] 0 1)) = some 2 ∧
    (Memory.ofBytes [0x42, 0x4D, 1]).len = (parsing [0x42, 0x4D, 0] 0 1).buf.len ∧
    ∀ a, a < 2 → (Memory.ofBytes [0x42, 0x4D, 1]).byteAt a = (parsing [0x42, 0x4D, 0] 0 1).buf.byteAt a := by decide

theorem witness_SignatureIsChecked :
    (parsing [0x42] 0 1).buf.len < (parsing [0x42] 0 1).pos + 2 ∧
    ((parsing [0x42, 0x4D] 0 1).pos + 2 ≤ (parsing [0x42, 0x4D] 0 1).buf.len ∧
      (parsing [0x42, 0x4D] 0 1).buf.byteAt 0 = 0x42 ∧ (parsing [0x42, 0x4D] 0 1).buf.byteAt 1 = 0x4D) ∧
    ((parsing [0x42, 0x41] 0 1).pos + 2 ≤ (parsing [0x42, 0x41] 0 1).buf.len ∧
      ¬ ((parsing [0x42, 0x41] 0 1).buf.byteAt 0 = 0x42 ∧ (parsing [0x42, 0x41] 0 1).buf.byteAt 1 = 0x4D)) := by decide

/-- Also for H_RESERVED: 4 bytes from `pos`, and one byte too few; the same for 2 bytes. -/
theorem witness_PlainHeaderStepsStoreTheirField :
    plain32 ≠ [] ∧ plain16 ≠ [] ∧ (parsing q 4 2).pos + 4 ≤ (parsing q 4 2).buf.len ∧
    (parsing q 5 2).buf.len < (parsing q 5 2).pos + 4 ∧ (parsing q 6 8).pos + 2 ≤ (parsing q 6 8).buf.len ∧
    (parsing q 7 8).buf.len < (parsing q 7 8).pos + 2 := by
  refine ⟨List.cons_ne_nil _ _, List.cons_ne_nil _ _, ?_⟩
  decide

theorem witness_ReservedFieldIsDropped :
    (parsing q 4 3).pos + 4 ≤ (parsing q 4 3).buf.len ∧ (parsing q 5 3).buf.len < (parsing q 5 3).pos + 4 := by decide

theorem witness_ColorCountFallsBack :
    (colorsState 31 [0, 0, 0, 0]).md.bitsPerPixel = some 31 ∧
    (colorsState 31 [0, 0, 0, 0]).pos + 4 ≤ (colorsState 31 [0, 0, 0, 0]).buf.len ∧
    (colorsState 32 [0, 0, 0]).md.bitsPerPixel = some 32 ∧
    (colorsState 32 [0, 0, 0]).buf.len < (colorsState 32 [0, 0, 0]).pos + 4 := by decide

theorem witness_ImportantColorCountFallsBack :
    (impState 2 [0, 0, 0, 0]).md.colorsCount = some 2 ∧
    (impState 2 [0, 0, 0, 0]).pos + 4 ≤ (impState 2 [0, 0, 0, 0]).buf.len ∧
    (impState 2 [0, 0, 0]).buf.len < (impState 2 [0, 0, 0]).pos + 4 := by decide

theorem witness_PaletteStepReadsEveryEntry :
    (paletteState 9 2 []).md.bitsPerPixel = some 9 ∧ (paletteState 9 2 []).md.colorsCount = some 2 ∧
    (paletteState 8 1 [1, 2, 3, 4]).md.bitsPerPixel = some 8 ∧ (paletteState 8 1 [1, 2, 3, 4]).md.colorsCount = some 1 ∧
    (paletteState 8 1 [1, 2, 3, 4]).pos + 4 * 1 ≤ (paletteState 8 1 [1, 2, 3, 4]).buf.len ∧
    (paletteState 0 2 [1, 2, 3, 4, 5, 6, 7]).md.bitsPerPixel = some 0 ∧
    (paletteState 0 2 [1, 2, 3, 4, 5, 6, 7]).md.colorsCount = some 2 ∧
    (paletteState 0 2 [1, 2, 3, 4, 5, 6, 7]).pos ≤ (paletteState 0 2 [1, 2, 3, 4, 5, 6, 7]).buf.len ∧
    (paletteState 0 2 [1, 2, 3, 4, 5, 6, 7]).buf.len < (paletteState 0 2 [1, 2, 3, 4, 5, 6, 7]).pos + 4 * 2 := by decide

theorem witness_MaskStepEndsTheParse :
    (colorsState 15 []).md.bitsPerPixel = some 15 ∧
    (∀ bytes, (colorsState 16 bytes).md.bitsPerPixel = some 16 ∧ (colorsState 16 bytes).pos = 0) ∧
    12 ≤ (colorsState 16 (List.replicate 12 1)).buf.len ∧ (colorsState 16 (List.replicate 3 1)).buf.len < 4 ∧
    4 ≤ (colorsState 16 (List.replicate 4 1)).buf.len ∧ (colorsState 16 (List.replicate 7 1)).buf.len < 8 ∧
    8 ≤ (colorsState 16 (List.replicate 8 1)).buf.len ∧ (colorsState 16 (List.replicate 11 1)).buf.len < 12 :=
  ⟨rfl, fun _ => ⟨rfl, rfl⟩, by decide, by decide, by decide, by decide, by decide, by decide⟩

theorem witness_CompressionAndDepthAreChecked :
    (compressionState 3).md.compression = some 3 ∧ (compressionState 4).md.compression = some 4 ∧
    (decoding [] 32 19).md.bitsPerPixel = some 32 ∧ (32 : U16).toNat ∈ [1, 2, 4, 8, 16, 24, 32] ∧
    (decoding [] 33 19).md.bitsPerPixel = some 33 ∧ (33 : U16).toNat ∉ [1, 2, 4, 8, 16, 24, 32] := by decide

/-- The last clause: the first and the last step of a run. -/
theorem witness_SeekStepGoesToTheDataOffset :
    (seekState 8).md.dataOffset = some 8 ∧ (8 : U32).toNat ≤ (seekState 8).buf.len ∧
    (seekState 9).md.dataOffset = some 9 ∧ (seekState 9).buf.len < (9 : U32).toNat ∧
    ((parsing q 0 1).unitCmd = none ∧ (parsing q 0 1).phase = 1 ∧
      seen (fun t => t.pos) (step (parsing q 0 1)) = some 2) ∧
    ((decoding q 24 25).unitCmd = none ∧ (decoding q 24 25).phase = 25 ∧
      seen (fun t => t.pos) (step (decoding q 24 25)) = some 0) := by decide

/-- An image of no pixels fits every output space. -/
theorem witness_AllocStepMakesTheOutput :
    (withImage 0 1 0 0 (decoding [] 24 21)).md.width = some 0 ∧ (withImage 0 1 0 0 (decoding [] 24 21)).md.height = some 1 ∧
    outputFits ((0 : U32).toNat * (1 : U32).toNat) = true ∧ 0 < (1 : U32).toNat ∧
    (withImage 2 0 0 0 (decoding [] 24 21)).md.height = some 0 ∧ outputFits ((2 : U32).toNat * (0 : U32).toNat) = true := by
  have h : outputFits 0 = true := by
    unfold outputFits
    cases Config.outCap <;> simp
  exact ⟨rfl, rfl, h, by decide, rfl, h⟩

theorem witness_RowStartResetsTheRow : (withImage 0 1 0 0 (decoding [] 24 22)).md.width = some 0 := by decide

/-- P2's first pixel; and a buffer one byte short of it. -/
def pixelState (bytes : List Byte) : State := withImage 3 2 0 1 (decoding bytes 24 23)

theorem witness_PixelStepRunsTheSelectedOperation :
    (pixelState [1, 2, 3]).status = .decoding ∧ (pixelState [1, 2, 3]).phase = 23 ∧
    (pixelState [1, 2, 3]).md.bitsPerPixel = some 24 ∧ formatOfDepth 24 = some .p24 ∧
    (pixelState [1, 2, 3]).md.width = some 3 ∧ (pixelState [1, 2, 3]).x = some 0 ∧ (pixelState [1, 2, 3]).y = some 1 ∧
    (pixelState [1, 2, 3]).out = some ⟨6, []⟩ ∧ (1 : U32).toNat * (3 : U32).toNat + (0 : U32).toNat < 6 ∧
    (0 : U32).toNat < (3 : U32).toNat ∧
    seen (fun t => (t.status, t.opResult)) (exec (pixelInstr .p24) (pixelState [1, 2, 3])) =
      some (.decoding, pixel 3 2 1 255) ∧
    seen (fun t => t.status) (exec (pixelInstr .p24) (pixelState [1, 2])) = some .failed := by decide

/-- The last column of a row of 3, and the first (both phases): true colour, palette, sub-byte. -/
theorem witness_PixelStepCompletes :
    (let s := withImage 3 2 2 1 (decoding q 32 23)
     s.md.width = some 3 ∧ s.x = some 2 ∧ s.y = some 1 ∧ s.out = some ⟨6, []⟩ ∧
       (1 : U32).toNat * (3 : U32).toNat + (2 : U32).toNat < 6 ∧ s.md.bitsPerPixel = some 32 ∧ s.pos + 4 ≤ s.buf.len) ∧
    (pixelState [1, 2, 3]).pos + 3 ≤ (pixelState [1, 2, 3]).buf.len ∧
    (withImage 3 2 0 0 (decoding [1, 2] 16 23)).md.bitsPerPixel = some 16 ∧
    (let s := withPalette (withImage 3 2 0 0 (decoding [1] 8 23))
     s.md.bitsPerPixel = some 8 ∧ s.md.colorsCount = some 2 ∧ s.pos + 1 ≤ s.buf.len ∧ byteNat s s.pos < (2 : U32).toNat ∧
       (s.pal.bind fun pal => pal.get (byteNat s s.pos)) = some ⟨255, 255, 255, 255⟩) ∧
    (let s := withPalette (withImage 3 2 0 0 (decoding [0x1B] 4 23))
     s.md.bitsPerPixel = some (BitVec.ofNat 16 (subBits .d4)) ∧ s.bitsRemaining = 0 ∧ s.pos + 1 ≤ s.buf.len ∧
       byteNat s s.pos >>> (8 - subBits .d4) < (2 : U32).toNat ∧
       (s.pal.bind fun pal => pal.get (byteNat s s.pos >>> (8 - subBits .d4))) = some ⟨255, 255, 255, 255⟩) ∧
    (let s := withImage 3 2 0 0 (bitsState 0x1B 1)
     s.md.bitsPerPixel = some (BitVec.ofNat 16 (subBits .d1)) ∧ subBits .d1 ≤ s.bitsRemaining.val ∧
       (s.currentByte.toNat >>> (s.bitsRemaining.val - subBits .d1)) % 2 ^ subBits .d1 < (2 : U32).toNat ∧
       (s.pal.bind fun pal => pal.get 1) = some ⟨255, 255, 255, 255⟩) := by decide

/-- D_ROWEND with `rowBytes` and the bytes that follow. -/
def rowEndState (y : U32) (rowBytes : Nat) (bytes : List Byte) : State :=
  { withImage 1 2 1 y (decoding bytes 24 24) with rowBytes := rowBytes }

theorem witness_RowEndSkipsThePadding :
    ((rowEndState 1 1 [0, 0, 0]).y = some 1 ∧ ((rowEndState 1 1 [0, 0, 0]).rowBytes + 3) % 4 = 0 ∧
      (rowEndState 1 1 [0, 0, 0]).pos + 3 ≤ (rowEndState 1 1 [0, 0, 0]).buf.len) ∧
    ((rowEndState 0 4 []).y = some 0 ∧ ((rowEndState 0 4 []).rowBytes + 0) % 4 = 0 ∧
      (rowEndState 0 4 []).pos + 0 ≤ (rowEndState 0 4 []).buf.len) ∧
    (rowEndState 1 1 [0, 0]).buf.len < (rowEndState 1 1 [0, 0]).pos + 3 := by decide

theorem witness_TrueColorPixels :
    (decoding [1, 2, 3] 24 23).pos + 3 ≤ (decoding [1, 2, 3] 24 23).buf.len ∧
    ((decoding [1, 2] 24 23).pos ≤ (decoding [1, 2] 24 23).buf.len ∧
      (decoding [1, 2] 24 23).buf.len < (decoding [1, 2] 24 23).pos + 3) ∧
    (decoding [1, 2, 3, 4] 32 23).pos + 4 ≤ (decoding [1, 2, 3, 4] 32 23).buf.len ∧
    ((decoding [] 32 23).pos ≤ (decoding [] 32 23).buf.len ∧
      (decoding [] 32 23).buf.len < (decoding [] 32 23).pos + 4) := by decide

theorem witness_MaskedPixels :
    (withMasks 0xF800 0x07E0 0x001F (decoding [1, 2] 16 23)).md.maskR = some 0xF800 ∧
    (withMasks 0xF800 0x07E0 0x001F (decoding [1, 2] 16 23)).md.maskG = some 0x07E0 ∧
    (withMasks 0xF800 0x07E0 0x001F (decoding [1, 2] 16 23)).md.maskB = some 0x001F ∧
    (withMasks 0xF800 0x07E0 0x001F (decoding [1, 2] 16 23)).pos + 2 ≤ 2 ∧ (decoding [1] 16 23).buf.len < 2 := by decide

theorem witness_PaletteLookups :
    (withPalette (decoding [1] 8 23)).md.colorsCount = some 2 ∧ (2 : U32).toNat ≤ 2 ∧ 1 < (2 : U32).toNat ∧
    ((withPalette (decoding [1] 8 23)).pal.bind fun pal => pal.get 1) = some ⟨255, 255, 255, 255⟩ ∧
    byteNat (withPalette (decoding [1] 8 23)) 0 < (2 : U32).toNat ∧
    (2 : U32).toNat ≤ byteNat (withPalette (decoding [2] 8 23)) 0 ∧
    (withPalette (decoding [] 8 23)).buf.len < (withPalette (decoding [] 8 23)).pos + 1 := by decide

theorem witness_UnpackTakesTheTopBits :
    ((decoding [] 4 23).bitsRemaining = 0 ∧ (decoding [] 4 23).buf.len < (decoding [] 4 23).pos + 1) ∧
    ((decoding [0xAB] 1 23).bitsRemaining = 0 ∧ (decoding [0xAB] 1 23).pos + 1 ≤ (decoding [0xAB] 1 23).buf.len ∧
      (7 : Fin 9).val = 8 - subBits .d1) ∧
    (subBits .d4 ≤ (bitsState 0xAB 4).bitsRemaining.val ∧
      (0 : Fin 9).val = (bitsState 0xAB 4).bitsRemaining.val - subBits .d4) := by decide

/-- Byte `1B` at depth 2: index 0 is in the palette of two; its third pixel, 2, is not. -/
theorem witness_SubBytePixelsUnpackThenLookUp :
    (withPalette (decoding [0x1B] 2 23)).md.colorsCount = some 2 ∧
    ((withPalette (decoding [] 2 23)).bitsRemaining = 0 ∧ (withPalette (decoding [] 2 23)).buf.len < 1) ∧
    seen (fun t => t.opResult) (exec (.unpack .d2) (withPalette (decoding [0x1B] 2 23))) = some (number 0) ∧
    subBits .d2 ≤ (bitsState 0x1B 4).bitsRemaining.val ∧
    seen (fun t => t.opResult) (exec (.unpack .d2) (bitsState 0x1B 4)) = some (number 2) ∧
    ((bitsState 0x1B 4).pal.bind fun pal => pal.get 0) = some ⟨0, 0, 0, 255⟩ := by decide

theorem witness_StartOpensASession :
    opField 0x1FFFFFFFF = 1 ∧ State.reset.status = .idle ∧ p1Done.status ≠ .idle := by decide

theorem witness_RegisterReads :
    opField 0x200000000 = 2 ∧ (p1Done.status, 3) ∈ [(Status.idle, 0), (.parsing, 1), (.decoding, 2), (.done, 3), (.failed, 4)] ∧
    (f2Failed.status = .failed ∧ f2Failed.err = some ⟨.unsupportedCompression, 1, 54, 18⟩) ∧
    p1Done.status ≠ .failed ∧ (p1Done.mdValid = true ∧ p1Done.md.width = some 1) ∧
    ((withMasks 1 2 3 (decoding [] 16 30)).mdValid = true ∧
      (withMasks 1 2 3 (decoding [] 16 30)).md.bitsPerPixel = some 16 ∧
      (withMasks 1 2 3 (decoding [] 16 30)).md.maskB = some 3) ∧
    p1Done.md.bitsPerPixel ≠ some 16 ∧ State.reset.mdValid = false ∧ 4 ≤ 19 ∧
    ({ p1Done with prof := some ⟨5, 7⟩ } : State).status = .done ∧ p1Done.prof = none ∧
    f2Failed.status = .failed ∧ State.reset.status ≠ .done ∧ State.reset.status ≠ .failed := by decide

theorem witness_PaletteAndPixelReads :
    opField 0x300000000 = 3 ∧ opField 0x400000000 = 4 ∧
    (let s := withPalette (decoding [] 8 30)
     s.md.bitsPerPixel = some 8 ∧ s.md.colorsCount = some 2 ∧ s.mdValid = true ∧ 1 < (2 : U32).toNat ∧
       (s.pal.bind fun pal => pal.get 1) = some ⟨255, 255, 255, 255⟩) ∧
    (p1Done.md.width = some 1 ∧ p1Done.md.height = some 1 ∧ p1Done.status = .done ∧
      0 < (1 : U32).toNat * (1 : U32).toNat ∧ (p1Done.out.bind fun st => st.get 0) = some ⟨17, 34, 51, 255⟩) ∧
    (State.reset.mdValid = false ∧ State.reset.status ≠ .done ∧ State.reset.md.bitsPerPixel = none ∧
      State.reset.pal = none ∧ State.reset.out = none) ∧
    ((1 : U32).toNat * (1 : U32).toNat ≤ 1 ∧ p1Done.md.bitsPerPixel = some 24 ∧ 8 < (24 : U16).toNat) := by decide

/-- R257, column `IDLE`: nothing is written, and both reads are refused. -/
theorem test_reads_in_idle :
    stopped (exec (.rdpal 0) State.reset) = some .unreadablePaletteEntry ∧
    stopped (exec (.rdout 0) State.reset) = some .unreadablePixel := ⟨rfl, rfl⟩

theorem witness_ReservedCodesAreRefused : opField 0x5FFFFFFFF = 5 ∧ opField 0x600000000 = 6 ∧ opField 0x700000001 = 7 := by
  decide

theorem witness_FaultEntryRecordsTheFault :
    (parsing [0x42] 0 1).status ≠ .failed ∧ seen (fun t => t.status) (exec .hSig (parsing [0x42] 0 1)) = some .failed ∧
    (pixelState [1, 2]).status ≠ .failed ∧ seen (fun t => t.status) (exec .dPixel (pixelState [1, 2])) = some .failed ∧
    (withPalette (decoding [2] 8 23)).status ≠ .failed ∧
    faulted (exec .px8 (withPalette (decoding [2] 8 23))) = some (.paletteIndexRange, 2, 1, 23) := by
  decide

theorem witness_EachFaultHasItsOperations :
    faulted (exec .hSig (parsing [0, 0] 0 1)) = some (.formatError, 0, 2, 1) ∧
    faulted (exec .dChkcomp (compressionState 1)) = some (.unsupportedCompression, 1, 0, 18) ∧
    faulted (exec .dChkdepth (decoding [] 0 19)) = some (.unsupportedDepth, 0, 0, 19) ∧
    faulted (exec (.lookup 2) (withPalette (decoding [] 8 23))) = some (.paletteIndexRange, 2, 0, 23) ∧
    faulted (exec .dSeek (seekState 9)) = some (.outOfBounds, 9, 0, 20) := by decide

theorem witness_BufferIsNeverWritten :
    seen (fun t => t.buf.len) (exec .start { State.reset with source := Memory.ofBytes q }) = some 8 ∧
    seen (fun t => t.buf.len) (exec .dPixel (pixelState [1, 2, 3])) = some 3 := by decide

theorem witness_OnlyPixelStepsWriteTheOutput :
    seen (fun t => t.out) (exec .dRowend (rowEndState 0 4 [])) = some (some ⟨2, []⟩) ∧
    (pixelState [1, 2, 3]).out = some ⟨6, []⟩ ∧ (seen (fun t => t.pos) (exec .dPixel (pixelState [1, 2, 3]))).isSome := by
  decide

theorem witness_PixelsAreFourBytesEach :
    (⟨1, [(0, ⟨17, 34, 51, 255⟩)]⟩ : PixelStore).get 0 = some ⟨17, 34, 51, 255⟩ := by decide

/-! ### Witnesses: states that satisfy the invariants -/

/-- The session right after START with a buffer of the signature only. -/
def sigState : State := startSession { State.reset with source := Memory.ofBytes [0x42, 0x4D] }

theorem sigState_decoded : sigState.Decoded := by
  have hc : sigState.Coherent := by
    refine ⟨rfl, rfl, ?_, rfl, ?_, rfl, ?_⟩
    · intro _ h; exact nomatch h
    · intro h; exact nomatch h
    · intro h; exact nomatch h
  have hp : sigState.Parsed := by
    refine ⟨hc, ?_, rfl, rfl, rfl, rfl, rfl, rfl, rfl, rfl, rfl, rfl, rfl, rfl, rfl, ?_, fun _ => rfl, ?_,
      fun _ => ⟨rfl, rfl, rfl⟩, fun _ _ => rfl, ?_, ?_, ?_, by decide⟩
    all_goals (intro h; exact absurd h (by decide))
  refine ⟨hp, by decide, by decide, by decide, fun _ => rfl, ?_, ?_, ?_, ?_⟩
  all_goals (intro _ _ h; exact absurd h (by decide))

/-- P1 (95_test_vectors.md part 3). -/
def p1 : List Byte :=
  [0x42, 0x4D, 0x3A, 0, 0, 0, 0, 0, 0, 0, 0x36, 0, 0, 0] ++ [0x28, 0, 0, 0, 1, 0, 0, 0, 1, 0, 0, 0, 1, 0, 0x18, 0] ++
  [0, 0, 0, 0, 4, 0, 0, 0, 0x13, 0x0B, 0, 0, 0x13, 0x0B, 0, 0, 0, 0, 0, 0, 0, 0, 0, 0] ++ [0x33, 0x22, 0x11, 0]

/-- The registers of P1's end state, in the order #4 to #16. -/
def p1Metadata : Metadata :=
  { Metadata.unwritten with
    fileSize := some 58, dataOffset := some 54, dibHeaderSize := some 40, width := some 1, height := some 1
    planesCount := some 1, bitsPerPixel := some 24, compression := some 0, dataSize := some 4
    resolutionHorz := some 2835, resolutionVert := some 2835, colorsCount := some 16777216
    importantColorsCount := some 16777216 }

/-- P1's end state. -/
def p1End : State := { p1Done with buf := Memory.ofBytes p1, md := p1Metadata }

theorem p1End_written : p1End.Written .p24 0 1 := by
  refine ⟨⟨1, [(0, ⟨17, 34, 51, 255⟩)]⟩, rfl, by decide, ?_⟩
  intro y x hy hx _
  have hy' : y < 1 := hy
  have hx' : x < 1 := hx
  obtain rfl : y = 0 := by omega
  obtain rfl : x = 0 := by omega
  decide

theorem p1End_decoded : p1End.Decoded := by
  have hc : p1End.Coherent := by
    refine ⟨rfl, rfl, ?_, rfl, ?_, rfl, ?_⟩
    · intro _ h; exact nomatch h
    · intro h; exact nomatch h
    · intro h; exact nomatch h
  have hp : p1End.Parsed := by
    refine ⟨hc, by decide, by decide, by decide, by decide, by decide, by decide, by decide, by decide, by decide,
      by decide, by decide, by decide, by decide, by decide, fun _ => rfl, by decide, by decide, by decide, by decide,
      by decide, by decide, by decide, by decide⟩
  refine ⟨hp, by decide, by decide, by decide, by decide, ?_, ?_, ?_, ?_⟩
  · intro _ _ h; exact absurd h (by decide)
  · intro _ _ h; exact absurd h (by decide)
  · intro _ _ h; exact absurd h (by decide)
  · intro f hf _
    obtain rfl : PixelFormat.p24 = f := Option.some.inj hf
    exact ⟨by decide, p1End_written⟩

/-- P1 at its only pixel: D_PIXEL in progress, nothing written yet. -/
def p1Pixel : State :=
  { p1End with pos := 54, phase := 23, status := .decoding, x := some 0, out := some (PixelStore.alloc 1) }

theorem p1Pixel_decoded : p1Pixel.Decoded := by
  have hc : p1Pixel.Coherent := by
    refine ⟨rfl, rfl, ?_, rfl, ?_, rfl, ?_⟩
    · intro _ h; exact nomatch h
    · intro h; exact nomatch h
    · intro h; exact nomatch h
  have hp : p1Pixel.Parsed := by
    refine ⟨hc, by decide, by decide, by decide, by decide, by decide, by decide, by decide, by decide, by decide,
      by decide, by decide, by decide, by decide, by decide, fun _ => rfl, by decide, by decide, by decide, by decide,
      by decide, by decide, by decide, by decide⟩
  refine ⟨hp, by decide, by decide, by decide, by decide, ?_, ?_, ?_, ?_⟩
  · intro _ _ h; exact absurd h (by decide)
  · intro f hf _
    obtain rfl : PixelFormat.p24 = f := Option.some.inj hf
    refine ⟨0, 0, rfl, rfl, by decide, by decide, ⟨by decide, by decide, by decide, by decide⟩, ?_⟩
    refine ⟨PixelStore.alloc 1, rfl, by decide, ?_⟩
    intro y x hy hx h
    have hy' : y < 1 := hy
    have hx' : x < 1 := hx
    have h' : 0 < y ∨ 0 = y ∧ x < 0 := h
    omega
  · intro _ _ h; exact absurd h (by decide)
  · intro _ _ h; exact absurd h (by decide)

theorem sigState_canonical : sigState.Canonical := by
  refine ⟨by decide, by decide, by decide, ?_, ?_, by decide⟩ <;> (intro _ h; cases h)

theorem witness_StepsKeepMemoriesCanonical :
    sigState.Canonical ∧ seen (fun t => (t.pos, t.phase)) (step sigState) = some (2, 2) := ⟨sigState_canonical, by decide⟩

theorem witness_StepsKeepControlCoherent :
    sigState.Coherent ∧ p1End.Coherent ∧ seen (fun t => (t.status, t.phase)) (step sigState) = some (.parsing, 2) :=
  ⟨sigState_decoded.parsed.coherent, p1End_decoded.parsed.coherent, by decide⟩

theorem witness_StepsKeepMetadataTrueToTheBuffer :
    sigState.Parsed ∧ seen (fun t => (t.pos, t.phase)) (step sigState) = some (2, 2) := ⟨sigState_decoded.parsed, by decide⟩

theorem witness_StepsKeepOutputTrueToTheBuffer :
    p1Pixel.Decoded ∧
    seen (fun t => (t.out, t.phase)) (step p1Pixel) = some (some ⟨1, [(0, ⟨17, 34, 51, 255⟩)]⟩, 24) :=
  ⟨p1Pixel_decoded, by decide⟩

/-- The first step of a run, and one of its pixels. -/
theorem witness_RunIsNeverStuck :
    (sigState.Decoded ∧ sigState.status = .parsing) ∧ (p1Pixel.Decoded ∧ p1Pixel.status = .decoding) :=
  ⟨⟨sigState_decoded, rfl⟩, p1Pixel_decoded, rfl⟩

theorem witness_EveryStepBringsTheEndNearer :
    sigState.phase = Phase.hSig ∧ p1Pixel.Decoded ∧ p1Pixel.status = .decoding ∧ p1Pixel.stepsLeft = 3 ∧
    seen (fun t => (t.status, t.stepsLeft)) (step p1Pixel) = some (.decoding, 2) :=
  ⟨rfl, p1Pixel_decoded, rfl, by decide, by decide⟩

theorem witness_CompressionHasNoFurtherEffect :
    Instr.dPixel ∈ [Instr.dRowstart, .dPixel] ∧ seen (fun t => t.phase) (exec .dPixel p1Pixel) = some 24 := by decide

theorem witness_PositionsFitTheRegister : sigState.Decoded ∧ sigState.PositionFits ∧ sigState.status = .parsing := by
  refine ⟨sigState_decoded, ?_, rfl⟩
  show 6 < 2 ^ (32 + Config.posExtra)
  calc 6 < 2 ^ 32 := by decide
    _ ≤ 2 ^ (32 + Config.posExtra) := Nat.pow_le_pow_right (by decide) (Nat.le_add_right _ _)

/-- DONE, with RESET and with a read waiting. -/
def p1EndWith (cmd : BitVec 35) : State := { p1End with inputs := [.command cmd] }

theorem p1EndWith_coherent (cmd : BitVec 35) : (p1EndWith cmd).Coherent := by
  obtain ⟨h1, h2, h3, h4, h5, h6, h7⟩ := p1End_decoded.parsed.coherent
  exact ⟨h1, h2, h3, h4, h5, h6, fun h => by cases h⟩

theorem witness_TerminalStatusEndsOnlyByReset :
    (p1EndWith 0x200000000).Coherent ∧ (p1EndWith 0x200000000).status = .done ∧
    seen (fun t => t.status) (step (p1EndWith 0x200000000)) = some .done ∧
    seen (fun t => t.status) (step (p1EndWith 0)) = some .idle :=
  ⟨p1EndWith_coherent _, rfl, by decide, by decide⟩

theorem witness_MetadataAreImmutableAfterTheParse :
    (p1EndWith 0x200000000).Coherent ∧ (p1EndWith 0x200000000).mdValid = true ∧
    seen (fun t => t.mdValid) (step (p1EndWith 0x200000000)) = some true :=
  ⟨p1EndWith_coherent _, rfl, by decide⟩

theorem witness_ResetRestoresEveryRegister :
    (decoding [] 24 23).status = .decoding ∧ p1Done.status = .done ∧ f2Failed.status = .failed ∧
    State.reset.Coherent ∧ State.reset.status = .idle := by
  refine ⟨rfl, rfl, rfl, ?_, rfl⟩
  refine ⟨rfl, rfl, ?_, rfl, ?_, rfl, fun _ => rfl⟩
  · intro _ h; exact nomatch h
  · intro h; exact nomatch h

theorem witness_DoneImageIsThePixelArray :
    p1End.Decoded ∧ p1End.status = .done ∧ formatOfDepth p1End.buf.depth = some .p24 ∧ 0 < p1End.buf.width ∧
    0 < p1End.buf.height :=
  ⟨p1End_decoded, rfl, by decide, by decide, by decide⟩

theorem witness_DecodedImageIsComplete :
    p1End.Decoded ∧ p1End.status = .done ∧ formatOfDepth p1End.buf.depth = some .p24 :=
  ⟨p1End_decoded, rfl, by decide⟩

/-- P1's buffer holds all of the image, and ends with it. -/
theorem p1_decodable : (Memory.ofBytes p1).Decodable .p24 := by
  refine ⟨⟨by decide, ?_⟩, by decide, by decide, by decide, ?_⟩
  · intro f hf
    obtain rfl : PixelFormat.p24 = f := Option.some.inj hf
    decide
  · intro _ _ _ _ _ h; cases h

/-- Both clauses, at P1's pixel and at its last step. -/
theorem witness_CoveredRunTakesNoFault :
    p1Pixel.Decoded ∧ p1Pixel.status = .decoding ∧ p1Pixel.buf.Covered ∧ p1Pixel.buf.Decodable .p24 ∧
    p1Pixel.buf.pixelsEnd .p24 = p1Pixel.buf.len ∧ seen (fun t => t.phase) (step p1Pixel) = some 24 :=
  ⟨p1Pixel_decoded, rfl, p1_decodable.covered, p1_decodable, by decide, by decide⟩

/-- What the host reads of P1 (V-S4). -/
theorem test_p1_pixel : seen (fun t => t.hostResult) (exec (.rdout 0) p1End) = some (pixel 17 34 51 255) ∧
    p1End.buf.pixelAt .p24 (p1End.buf.rowStart .p24 0) 0 = ⟨17, 34, 51, 255⟩ := by decide

end Sys2Proof.Tests
end

section
/-! Hoare-style rules for the operations: a predicate of the state that an operation keeps, with what it may raise. -/
namespace Sys2Proof.Machine

variable {α β : Type} {P : State → Prop} {E : Raise → Prop}

/-- The operation has ended in a state of `P`, and what it raised, if it did, is of `E`. -/
def EndsIn (P : State → Prop) (E : Raise → Prop) : EStateM.Result Raise State α → Prop
  | .ok _ t => P t
  | .error r t => P t ∧ E r

/-- From a state of `P` the operation ends in a state of `P`, and raises faults of `E` only. -/
def Keeps (P : State → Prop) (E : Raise → Prop) (op : Op α) : Prop := ∀ s, P s → EndsIn P E (op s)

theorem Keeps.bind {m : Op α} {f : α → Op β} (hm : Keeps P E m) (hf : ∀ a, Keeps P E (f a)) :
    Keeps P E (m >>= f) := by
  intro s hs
  have h := hm s hs
  rw [op_bind]
  cases hr : m s with
  | ok a t => rw [hr] at h; exact hf a t h
  | error r t => rw [hr] at h; exact h

theorem Keeps.pure (a : α) : Keeps P E (Pure.pure a : Op α) := fun _ hs => hs

theorem Keeps.ask (f : State → α) : Keeps P E (ask f) := fun _ hs => hs

theorem Keeps.update {f : State → State} (hf : ∀ s, P s → P (f s)) : Keeps P E (update f) := hf

theorem Keeps.raise {kind : ErrKind} {info : Nat} (hE : E ⟨kind, info⟩) : Keeps P E (raise kind info : Op α) :=
  fun _ hs => ⟨hs, hE⟩

theorem Keeps.ite {c : Prop} [Decidable c] {op₁ op₂ : Op α} (h₁ : Keeps P E op₁) (h₂ : Keeps P E op₂) :
    Keeps P E (if c then op₁ else op₂) := by
  split
  · exact h₁
  · exact h₂

/-- As `Keeps.ite`, for a course chosen by the state, the operations applied under the choice. -/
theorem Keeps.iteState {c : State → Prop} [DecidablePred c] {op₁ op₂ : State → Op α} (h₁ : ∀ s, Keeps P E (op₁ s))
    (h₂ : ∀ s, Keeps P E (op₂ s)) : Keeps P E fun s => if c s then op₁ s s else op₂ s s := by
  intro s hs
  show EndsIn P E (if c s then op₁ s s else op₂ s s)
  split
  · exact h₁ s s hs
  · exact h₂ s s hs

/-- The outcome, if it is a next state, is one of `Q`. -/
def NextIn (Q : State → Prop) : Out → Prop
  | .next t => Q t
  | .fault _ | .refused _ => True

end Sys2Proof.Machine
end

section
/-! In a run the engine runs the sequencer step that `phase` names (R23, R259). -/
namespace Sys2Proof.Machine

/-- In a run a step is in progress: the host has no move (R259). -/
theorem atRest_of_running {s : State} (hc : s.Coherent) (hr : s.status = .parsing ∨ s.status = .decoding) :
    atRest s.phase = false := by
  have hall : ∀ p : BitVec 5, statusOfPhase p = some .parsing ∨ statusOfPhase p = some .decoding →
      atRest p = false := by decide
  exact hall s.phase (by simpa [hc.status] using hr)

/-- What a step of a run does: the sequencer step of `phase`, nothing else. -/
theorem step_running {s t : State} (hc : s.Coherent) (hr : s.status = .parsing ∨ s.status = .decoding)
    (h : step s = .next t) : ∃ i, decodePH s.phase = .ok i ∧ exec i s = .next t := by
  have hf : fetch s = .word (.ph s.phase) s := by simp [fetch, hc.unit, atRest_of_running hc hr]
  simp only [step, hf, decode] at h
  cases hd : decodePH s.phase with
  | ok i => rw [hd] at h; exact ⟨i, rfl, h⟩
  | error e => rw [hd] at h; cases h

/-- A run has taken no fault yet (R50). -/
theorem err_of_running {s : State} (hc : s.Coherent) (hr : s.status = .parsing ∨ s.status = .decoding) :
    s.err = none := by
  have hnot : s.status ≠ .failed := by intro h; simp [h] at hr
  exact Option.not_isSome_iff_eq_none.mp (by simpa [hc.err] using hnot)

/-- Format PH holds one code for each sequencer step (R106). -/
theorem encode_of_decodePH {code : BitVec 5} {i : Instr} (h : decodePH code = .ok i) : encode i = some (.ph code) := by
  have hall : ∀ c : BitVec 5, (match decodePH c with
      | .ok j => decide (encode j = some (.ph c))
      | .error _ => true) = true := by decide
  have hc := hall code
  rw [h] at hc
  exact of_decide_eq_true hc

end Sys2Proof.Machine
end

section
/-! The positions of a run and `POS_W` (R8, D2): the cursor stays in the buffer, and what OutOfBounds carries lies at
most 4 beyond it or, at D_SEEK, is a 32-bit offset. -/
namespace Sys2Proof.Machine

/-- Before a step, and inside it until it raises: the launch premise, the cursor in the buffer, no fault yet. -/
structure State.CursorFits (s : State) : Prop where
  premise  : s.PositionFits
  inBuffer : s.pos ≤ s.buf.len
  noFault  : s.err = none

/-- A position that the fault carries fits the register. -/
def Raise.Fits (r : Raise) : Prop := r.kind = .outOfBounds → r.info < 2 ^ Config.posW

/-- After a step: `pos` and the position of an OutOfBounds fit the register. -/
def State.PositionsFit (s : State) : Prop :=
  s.pos < 2 ^ Config.posW ∧ ∀ e, s.err = some e → e.kind = .outOfBounds → e.info < 2 ^ Config.posW

/-- The operation keeps the cursor in the buffer, and every position it raises fits the register. -/
abbrev KeepsFit {α : Type} (op : Op α) : Prop := Keeps State.CursorFits Raise.Fits op

/-- A 32-bit offset fits the register, whatever `POS_W` is (R8). -/
theorem toNat_lt_two_pow_posW (p : U32) : p.toNat < 2 ^ Config.posW :=
  Nat.lt_of_lt_of_le p.isLt (Nat.pow_le_pow_right (by decide) (Nat.le_add_right _ _))

theorem State.CursorFits.positionsFit {s : State} (hs : s.CursorFits) : s.PositionsFit := by
  obtain ⟨premise, inBuffer, noFault⟩ := hs
  unfold State.PositionFits at premise
  refine ⟨by omega, fun e he => ?_⟩
  rw [noFault] at he
  cases he

theorem takeFault_positionsFit {r : Raise} {s : State} (code : BitVec 5) (hs : s.CursorFits) (hr : r.Fits) :
    (takeFault r code s).PositionsFit := by
  refine ⟨hs.positionsFit.1, fun e he hk => ?_⟩
  rw [takeFault_err] at he
  cases he
  exact hr hk

theorem runStep_positionsFit {op : Op Unit} {s : State} (code : BitVec 5) (hop : KeepsFit op) (hs : s.CursorFits) :
    (runStep code op s).PositionsFit := by
  have h := hop s hs
  cases hr : op s with
  | ok u t => rw [hr] at h; rw [runStep_ok code hr]; exact State.CursorFits.positionsFit h
  | error r t => rw [hr] at h; rw [runStep_error code hr]; exact takeFault_positionsFit code h.1 h.2

/-! ### The cursor operations -/

/-- SEEK, to a position that fits the register. -/
theorem seek_keepsFit {p : Nat} (hp : p < 2 ^ Config.posW) : KeepsFit (seek p) := by
  intro s hs
  by_cases h : p ≤ s.buf.len
  · rw [seek_ok p s h]; exact ⟨hs.premise, h, hs.noFault⟩
  · rw [seek_error p s (Nat.lt_of_not_le h)]; exact ⟨hs, fun _ => hp⟩

/-- From a cursor in the buffer, 4 bytes on still fits the register: what the 4 in the launch premise is for (D2). -/
theorem State.CursorFits.pos_add_lt {s : State} (hs : s.CursorFits) {n : Nat} (hn : n ≤ 4) :
    s.pos + n < 2 ^ Config.posW := by
  have premise := hs.premise
  have inBuffer := hs.inBuffer
  unfold State.PositionFits at premise
  omega

theorem skip_keepsFit {n : Nat} (hn : n ≤ 4) : KeepsFit (skip n) := by
  intro s hs
  rw [skip_eq_seek]
  exact seek_keepsFit (hs.pos_add_lt hn) s hs

theorem cursorRead_keepsFit {α : Type} {n : Nat} (hn : n ≤ 4) (value : State → α) : KeepsFit (cursorRead n value) := by
  intro s hs
  by_cases h : s.pos + n ≤ s.buf.len
  · rw [cursorRead_ok n value s h]; exact ⟨hs.premise, h, hs.noFault⟩
  · rw [cursorRead_error n value s (Nat.lt_of_not_le h)]; exact ⟨hs, fun _ => hs.pos_add_lt hn⟩

theorem rdu8_keepsFit : KeepsFit rdu8 := cursorRead_keepsFit (by decide) _

theorem rdu16_keepsFit : KeepsFit rdu16 := cursorRead_keepsFit (by decide) _

theorem rdu32_keepsFit : KeepsFit rdu32 := cursorRead_keepsFit (by decide) _

/-! ### The updates, which leave buffer, cursor and fault record -/

/-- A register write that leaves buffer, cursor and fault record; for a write of other fields that is seen by `rfl`. -/
theorem update_keepsFit {f : State → State}
    (hf : ∀ s, (f s).buf = s.buf ∧ (f s).pos = s.pos ∧ (f s).err = s.err := by intro _; exact ⟨rfl, rfl, rfl⟩) :
    KeepsFit (update f) := by
  refine Keeps.update fun s hs => ?_
  obtain ⟨hbuf, hpos, herr⟩ := hf s
  obtain ⟨premise, inBuffer, noFault⟩ := hs
  exact ⟨by rwa [State.PositionFits, hbuf], by rwa [hbuf, hpos], by rwa [herr]⟩

theorem goto_keepsFit (phase : BitVec 5) : KeepsFit (goto phase) := update_keepsFit

/-! ### The pixel operations -/

theorem countRowBytes_keepsFit (n : Nat) : KeepsFit (countRowBytes n) := update_keepsFit

theorem consumeBits_keepsFit (bpp : Nat) : KeepsFit (consumeBits bpp) := by
  rintro s ⟨premise, inBuffer, noFault⟩
  unfold consumeBits
  by_cases h : bpp ≤ s.bitsRemaining.val <;> simp only [h, if_true, if_false] <;> exact ⟨premise, inBuffer, noFault⟩

theorem unpack_keepsFit (d : SubDepth) : KeepsFit (unpack d) :=
  have fetchByte_keepsFit : KeepsFit fetchByte :=
    rdu8_keepsFit.bind fun _ => (countRowBytes_keepsFit 1).bind fun _ => update_keepsFit
  .iteState (fun _ => fetchByte_keepsFit.bind fun _ => consumeBits_keepsFit _) fun _ => consumeBits_keepsFit _

theorem lookup_keepsFit (index : Nat) : KeepsFit (lookup index) :=
  .iteState (op₁ := fun _ => raise .paletteIndexRange index) (op₂ := fun _ => ask fun s => s.palEntry index)
    (fun _ => .raise fun h => nomatch h) fun _ => .ask _

theorem pixelOp_keepsFit (f : PixelFormat) : KeepsFit (pixelOp f) := by
  cases f with
  | p1 => exact (unpack_keepsFit _).bind lookup_keepsFit
  | p2 => exact (unpack_keepsFit _).bind lookup_keepsFit
  | p4 => exact (unpack_keepsFit _).bind lookup_keepsFit
  | p8 => exact rdu8_keepsFit.bind fun _ => (countRowBytes_keepsFit 1).bind fun _ => lookup_keepsFit _
  | p16 => exact rdu16_keepsFit.bind fun _ => (countRowBytes_keepsFit 2).bind fun _ => .ask _
  | p24 =>
    exact rdu8_keepsFit.bind fun _ => rdu8_keepsFit.bind fun _ => rdu8_keepsFit.bind fun _ =>
      (countRowBytes_keepsFit 3).bind fun _ => .pure _
  | p32 =>
    exact rdu8_keepsFit.bind fun _ => rdu8_keepsFit.bind fun _ => rdu8_keepsFit.bind fun _ =>
      rdu8_keepsFit.bind fun _ => (countRowBytes_keepsFit 4).bind fun _ => .pure _

/-! ### The header steps -/

theorem stepSig_keepsFit : KeepsFit stepSig :=
  (cursorRead_keepsFit (by decide) _).bind fun _ => .ite (.raise fun h => nomatch h) (goto_keepsFit _)

theorem readField32_keepsFit (write : U32 → Metadata → Metadata) (nextPhase : BitVec 5) :
    KeepsFit (readField32 write nextPhase) :=
  rdu32_keepsFit.bind fun _ => .bind update_keepsFit fun _ => goto_keepsFit _

theorem readField16_keepsFit (write : U16 → Metadata → Metadata) (nextPhase : BitVec 5) :
    KeepsFit (readField16 write nextPhase) :=
  rdu16_keepsFit.bind fun _ => .bind update_keepsFit fun _ => goto_keepsFit _

theorem stepReserved_keepsFit : KeepsFit stepReserved := rdu32_keepsFit.bind fun _ => goto_keepsFit _

theorem stepColors_keepsFit : KeepsFit stepColors :=
  rdu32_keepsFit.bind fun _ => .bind update_keepsFit fun _ => goto_keepsFit _

theorem stepImpcolors_keepsFit : KeepsFit stepImpcolors :=
  rdu32_keepsFit.bind fun _ => .bind update_keepsFit fun _ => goto_keepsFit _

theorem readPaletteEntries_keepsFit (n i : Nat) : KeepsFit (readPaletteEntries n i) := by
  induction n generalizing i with
  | zero => exact .pure ()
  | succ n ih =>
    have entry : KeepsFit (readPaletteEntry i) :=
      rdu8_keepsFit.bind fun _ => rdu8_keepsFit.bind fun _ => rdu8_keepsFit.bind fun _ =>
        (skip_keepsFit (by decide)).bind fun _ => update_keepsFit
    exact entry.bind fun _ => ih (i + 1)

theorem stepPalette_keepsFit : KeepsFit stepPalette :=
  .iteState
    (fun _ => Keeps.bind update_keepsFit fun _ =>
      (readPaletteEntries_keepsFit _ 0).bind fun _ => goto_keepsFit _)
    fun _ => Keeps.bind update_keepsFit fun _ => goto_keepsFit _

theorem stepMasks_keepsFit : KeepsFit stepMasks :=
  have hend : KeepsFit endOfParse := update_keepsFit
  .iteState
    (fun _ => rdu32_keepsFit.bind fun _ => .bind update_keepsFit fun _ =>
      rdu32_keepsFit.bind fun _ => .bind update_keepsFit fun _ =>
      rdu32_keepsFit.bind fun _ => .bind update_keepsFit fun _ => hend)
    fun _ => Keeps.bind update_keepsFit fun _ => hend

/-! ### The decoder control steps -/

theorem stepChkcomp_keepsFit : KeepsFit stepChkcomp :=
  .iteState (fun _ => goto_keepsFit _) fun _ => .raise fun h => nomatch h

theorem stepChkdepth_keepsFit : KeepsFit stepChkdepth :=
  .iteState (fun _ => goto_keepsFit _) fun _ => .raise fun h => nomatch h

theorem stepSeek_keepsFit : KeepsFit stepSeek :=
  fun s => ((seek_keepsFit (toNat_lt_two_pow_posW s.dataOffset)).bind fun _ => goto_keepsFit _) s

theorem padBytes_lt (n : Nat) : padBytes n < 4 := Nat.mod_lt _ (by decide)

theorem stepRowend_keepsFit : KeepsFit stepRowend := by
  intro s
  refine ((skip_keepsFit (padBytes_lt s.rowBytes).le).bind fun _ => .bind update_keepsFit fun _ => .update ?_) s
  rintro t ⟨premise, inBuffer, noFault⟩
  dsimp only
  split <;> exact ⟨premise, inBuffer, noFault⟩

theorem allocOutput_positionsFit {s : State} (hs : s.CursorFits) : (allocOutput s).PositionsFit := by
  simpa [State.PositionsFit] using hs.positionsFit

theorem storePixel_positionsFit (p : Rgba8) {s : State} (hs : s.CursorFits) :
    NextIn State.PositionsFit (storePixel p s) := by
  unfold storePixel
  split
  · trivial
  · split
    · exact hs.positionsFit
    · trivial

theorem execDPixel_positionsFit {s : State} (hs : s.CursorFits) : NextIn State.PositionsFit (execDPixel s) := by
  unfold execDPixel
  cases formatOfDepth s.bitsPerPixel with
  | none => trivial
  | some f =>
    have h := pixelOp_keepsFit f s hs
    cases hr : pixelOp f s with
    | ok p t => rw [hr] at h; simpa only [hr] using storePixel_positionsFit p h
    | error r t => rw [hr] at h; simpa only [hr, NextIn] using takeFault_positionsFit _ h.1 h.2

/-! ### Every sequencer step -/

theorem exec_positionsFit {i : Instr} {code : BitVec 5} {s : State} (hi : encode i = some (.ph code))
    (hs : s.CursorFits) : NextIn State.PositionsFit (exec i s) := by
  cases i with
  | hSig => exact runStep_positionsFit _ stepSig_keepsFit hs
  | hReserved => exact runStep_positionsFit _ stepReserved_keepsFit hs
  | hFilesize | hDataoffset | hDibsize | hWidth | hHeight | hCompression | hDatasize | hResh | hResv =>
    exact runStep_positionsFit _ (readField32_keepsFit _ _) hs
  | hPlanes | hBpp => exact runStep_positionsFit _ (readField16_keepsFit _ _) hs
  | hColors => exact runStep_positionsFit _ stepColors_keepsFit hs
  | hImpcolors => exact runStep_positionsFit _ stepImpcolors_keepsFit hs
  | hPalette => exact runStep_positionsFit _ stepPalette_keepsFit hs
  | hMasks => exact runStep_positionsFit _ stepMasks_keepsFit hs
  | dChkcomp => exact runStep_positionsFit _ stepChkcomp_keepsFit hs
  | dChkdepth => exact runStep_positionsFit _ stepChkdepth_keepsFit hs
  | dSeek => exact runStep_positionsFit _ stepSeek_keepsFit hs
  | dAlloc =>
    show NextIn _ (execDAlloc s)
    unfold execDAlloc
    split
    · exact allocOutput_positionsFit hs
    · trivial
  | dRowstart => exact hs.positionsFit
  | dPixel => exact execDPixel_positionsFit hs
  | dRowend => exact runStep_positionsFit _ stepRowend_keepsFit hs
  | dFinish => exact hs.positionsFit
  | _ => simp [encode] at hi

end Sys2Proof.Machine

namespace Sys2Proof.Statements
open Sys2Proof.Machine

/-- Settles O58: the cursor never leaves the buffer; what OutOfBounds carries lies at most 4 beyond it or is D_SEEK's
32-bit offset. -/
theorem positionsFitTheRegister : Obligations.PositionsFitTheRegister := by
  intro s t hd hpremise hrun hstep
  have hc := hd.parsed.coherent
  have hs : s.CursorFits := ⟨hpremise, hd.parsed.inBounds, err_of_running hc hrun⟩
  obtain ⟨i, hdecode, hexec⟩ := step_running hc hrun hstep
  have hfit := exec_positionsFit (encode_of_decodePH hdecode) hs
  rwa [hexec] at hfit

end Sys2Proof.Statements
end

section
/-! Decoding and encoding are inverse to one another, up to ignored arguments (R104 to R107, R23). -/
namespace Sys2Proof
open Sys2Proof.Statements

/-- The eight codes of the operation field of formats CC and HC. -/
theorem opCode_cases (op : BitVec 3) :
    op = 0 ∨ op = 1 ∨ op = 2 ∨ op = 3 ∨ op = 4 ∨ op = 5 ∨ op = 6 ∨ op = 7 := by
  revert op; decide

theorem argField_argFits (cmd : BitVec 35) : argFits (argField cmd) = true :=
  decide_eq_true (cmd.extractLsb' 0 32).isLt

/-- The word of `i` selects the same operation as `w`, and the operands of `i` fit their fields. -/
def EncodesAs (i : Instr) (w : CmdWord) : Prop := WellFormed i ∧ ∃ w', encode i = some w' ∧ sameSelector w w'

theorem decodeCC_encodesAs (cmd : BitVec 35) : EncodesAs (decodeCC cmd) (.cc cmd) := by
  have harg := argField_argFits cmd
  rcases opCode_cases (opField cmd) with h | h | h | h | h | h | h | h <;>
    simp [EncodesAs, decodeCC, h, encode, sameSelector, WellFormed, Instr.wellFormed, harg]

theorem decodeHC_encodesAs (cmd : BitVec 35) : EncodesAs (decodeHC cmd) (.hc cmd) := by
  have harg := argField_argFits cmd
  rcases opCode_cases (opField cmd) with h | h | h | h | h | h | h | h <;>
    simp [EncodesAs, decodeHC, h, encode, sameSelector, WellFormed, Instr.wellFormed, harg]

theorem decodePH_encodesAs {code : BitVec 5} {i : Instr} (h : decodePH code = .ok i) : EncodesAs i (.ph code) := by
  have hall : ∀ c : BitVec 5, (decodePH c).toOption.all Instr.wellFormed = true := by decide
  have hwf : i.wellFormed = true := by simpa [h, Except.toOption] using hall code
  exact ⟨hwf, .ph code, Machine.encode_of_decodePH h, rfl⟩

/-- A pixel format has one depth (R104). -/
theorem depth_of_formatOfDepth {depth : U16} {f : PixelFormat} (h : formatOfDepth depth = some f) :
    depth = BitVec.ofNat 16 (Machine.formatBits f) := by
  apply BitVec.eq_of_toNat_eq
  unfold formatOfDepth at h
  split at h <;> cases h <;> simpa [Machine.formatBits] using ‹_›

theorem decodeDepth_encodesAs {depth : U16} {i : Instr} (h : decodeDepth depth = .ok i) :
    EncodesAs i (.bpp depth) := by
  unfold decodeDepth at h
  split at h
  · rename_i f hf
    cases h
    rw [depth_of_formatOfDepth hf]
    cases f <;> exact ⟨rfl, _, rfl, rfl⟩
  · cases h

theorem decode_encodesAs {w : CmdWord} {i : Instr} (h : decode w = .ok i) : EncodesAs i w := by
  cases w with
  | cc cmd => cases h; exact decodeCC_encodesAs cmd
  | ph code => exact decodePH_encodesAs h
  | bpp depth => exact decodeDepth_encodesAs h
  | hc cmd => cases h; exact decodeHC_encodesAs cmd

end Sys2Proof

namespace Sys2Proof.Statements
open Sys2Proof.Laws

/-- Settles O2: the round trip of each operation, one law per operation. -/
theorem encodedInstructionDecodesBack : Obligations.EncodedInstructionDecodesBack := by
  intro i
  cases i with
  | rdu8 => exact WordRoundTrip.rdu8
  | rdu16 => exact WordRoundTrip.rdu16
  | rdu32 => exact WordRoundTrip.rdu32
  | rdstr n => exact WordRoundTrip.rdstr n
  | seek p => exact WordRoundTrip.seek p
  | tell => exact WordRoundTrip.tell
  | skip n => exact WordRoundTrip.skip n
  | hSig => exact WordRoundTrip.hSig
  | hFilesize => exact WordRoundTrip.hFilesize
  | hReserved => exact WordRoundTrip.hReserved
  | hDataoffset => exact WordRoundTrip.hDataoffset
  | hDibsize => exact WordRoundTrip.hDibsize
  | hWidth => exact WordRoundTrip.hWidth
  | hHeight => exact WordRoundTrip.hHeight
  | hPlanes => exact WordRoundTrip.hPlanes
  | hBpp => exact WordRoundTrip.hBpp
  | hCompression => exact WordRoundTrip.hCompression
  | hDatasize => exact WordRoundTrip.hDatasize
  | hResh => exact WordRoundTrip.hResh
  | hResv => exact WordRoundTrip.hResv
  | hColors => exact WordRoundTrip.hColors
  | hImpcolors => exact WordRoundTrip.hImpcolors
  | hPalette => exact WordRoundTrip.hPalette
  | hMasks => exact WordRoundTrip.hMasks
  | dChkcomp => exact WordRoundTrip.dChkcomp
  | dChkdepth => exact WordRoundTrip.dChkdepth
  | dSeek => exact WordRoundTrip.dSeek
  | dAlloc => exact WordRoundTrip.dAlloc
  | dRowstart => exact WordRoundTrip.dRowstart
  | dPixel => exact WordRoundTrip.dPixel
  | dRowend => exact WordRoundTrip.dRowend
  | dFinish => exact WordRoundTrip.dFinish
  | px1 => exact WordRoundTrip.px1
  | px2 => exact WordRoundTrip.px2
  | px4 => exact WordRoundTrip.px4
  | px8 => exact WordRoundTrip.px8
  | px16 => exact WordRoundTrip.px16
  | px24 => exact WordRoundTrip.px24
  | px32 => exact WordRoundTrip.px32
  | unpack d => exact WordRoundTrip.unpack d
  | lookup index => exact WordRoundTrip.lookup index
  | reset => exact WordRoundTrip.reset
  | start => exact WordRoundTrip.start
  | rdreg n => exact WordRoundTrip.rdreg n
  | rdpal i => exact WordRoundTrip.rdpal i
  | rdout i => exact WordRoundTrip.rdout i
  | reservedCc7 => exact WordRoundTrip.reservedCc7
  | reservedHc5 => exact WordRoundTrip.reservedHc5
  | reservedHc6 => exact WordRoundTrip.reservedHc6
  | reservedHc7 => exact WordRoundTrip.reservedHc7

/-- Settles O3: in each format the decoded operation encodes to a word with the same selector, and that word decodes
back by O2. -/
theorem decodedWordIsTheEncodedOne : Obligations.DecodedWordIsTheEncodedOne := by
  intro w i h
  obtain ⟨hwf, w', hw', hsame⟩ := decode_encodesAs h
  exact ⟨hwf, w', hw', hsame, encodedInstructionDecodesBack i w' hwf hw'⟩

end Sys2Proof.Statements
end

section
/-! What a step finds to do: a word at a unit, else the step of `phase`, else the host's move (R23, R52, R259). -/
namespace Sys2Proof.Machine
open Sys2Proof.Statements

theorem fetch_unit {s : State} {c : UnitCmd} (h : s.unitCmd = some c) :
    fetch s = .word (unitWord c) { s with unitCmd := none } := by simp [fetch, h]

theorem fetch_phase {s : State} (hu : s.unitCmd = none) (h : atRest s.phase = false) :
    fetch s = .word (.ph s.phase) s := by simp [fetch, hu, h]

theorem fetch_atRest {s : State} (hu : s.unitCmd = none) (h : atRest s.phase = true) : fetch s = fetchHost s := by
  simp [fetch, hu, h]

theorem step_of_fetch {s s' : State} {w : CmdWord} {i : Instr} (hf : fetch s = .word w s') (hd : decode w = .ok i) :
    step s = exec i s' := by simp [step, hf, hd]

/-- A phase code that names a step is not one in which the host may act. -/
theorem atRest_of_decodePH {code : BitVec 5} {i : Instr} (h : decodePH code = .ok i) : atRest code = false := by
  have hall : ∀ c : BitVec 5, (decodePH c).isOk = true → atRest c = false := by decide
  exact hall code (by rw [h]; rfl)

theorem atRest_iff (code : BitVec 5) : atRest code = true ↔ code ∈ [0, 30, 31] := by
  revert code; decide

end Sys2Proof.Machine

namespace Sys2Proof.Statements
open Sys2Proof.Machine

/-- Settles O5: each clause is one case of `fetch`. -/
theorem stepRunsTheDecodedOperation : Obligations.StepRunsTheDecodedOperation := by
  intro s i
  refine ⟨fun cmd hu hd => ?_, fun depth hu hd => ?_, fun hu hd => ?_, fun cmd rest hu hphase hin hd => ?_⟩
  · exact step_of_fetch (fetch_unit hu) hd
  · exact step_of_fetch (fetch_unit hu) hd
  · exact step_of_fetch (fetch_phase hu (atRest_of_decodePH hd)) hd
  · refine step_of_fetch ?_ hd
    rw [fetch_atRest hu ((atRest_iff _).mpr hphase), fetchHost, hin]

end Sys2Proof.Statements
end

section
/-! The host's moves: what a step outside a run can be (R250 to R260). -/
namespace Sys2Proof.Machine
open Sys2Proof.Statements

/-- The next move of the host leads from `s` to this state: it presents a source, or it issues a command that its rule
admits. -/
inductive HostMove (s : State) : State → Prop
  | present (m : Memory) (rest : List HostInput) (hin : s.inputs = .present m :: rest) :
      HostMove s { s with source := m, inputs := rest }
  | reset (cmd : BitVec 35) (rest : List HostInput) (hin : s.inputs = .command cmd :: rest) (hop : opField cmd = 0)
      (hrun : s.status.running = false) : HostMove s (resetRegisters { s with inputs := rest })
  | start (cmd : BitVec 35) (rest : List HostInput) (hin : s.inputs = .command cmd :: rest) (hop : opField cmd = 1)
      (hidle : s.status = .idle) : HostMove s (startSession { s with inputs := rest })
  | answer (r : Result) (cmd : BitVec 35) (rest : List HostInput) (hin : s.inputs = .command cmd :: rest) :
      HostMove s (answered r { s with inputs := rest })

theorem execReset_eq_next {s t : State} (h : execReset s = .next t) :
    s.status.running = false ∧ t = resetRegisters s := by
  unfold execReset at h
  split at h <;> cases h
  exact ⟨by simpa using ‹¬ s.status.running = true›, rfl⟩

theorem execStart_eq_next {s t : State} (h : execStart s = .next t) : s.status = .idle ∧ t = startSession s := by
  unfold execStart at h
  split at h <;> cases h
  exact ⟨‹_›, rfl⟩

theorem execRdreg_eq_next {n : Nat} {s t : State} (h : execRdreg n s = .next t) : ∃ r, t = answered r s := by
  unfold execRdreg at h
  split at h <;> cases h
  exact ⟨_, rfl⟩

theorem execRdpal_eq_next {i : Nat} {s t : State} (h : execRdpal i s = .next t) : ∃ r, t = answered r s := by
  unfold execRdpal at h
  split at h <;> cases h
  exact ⟨_, rfl⟩

theorem execRdout_eq_next {i : Nat} {s t : State} (h : execRdout i s = .next t) : ∃ r, t = answered r s := by
  unfold execRdout at h
  split at h <;> cases h
  exact ⟨_, rfl⟩

/-- The next move being a command, the step is that command. -/
theorem hostMove_of_command {s t : State} {cmd : BitVec 35} {rest : List HostInput}
    (hin : s.inputs = .command cmd :: rest) (h : exec (decodeHC cmd) { s with inputs := rest } = .next t) :
    HostMove s t := by
  have answer : (∃ r, t = answered r { s with inputs := rest }) → HostMove s t := by
    rintro ⟨r, rfl⟩
    exact .answer r cmd rest hin
  rcases opCode_cases (opField cmd) with hop | hop | hop | hop | hop | hop | hop | hop <;> simp [decodeHC, hop] at h
  · obtain ⟨hrun, rfl⟩ := execReset_eq_next h
    exact .reset cmd rest hin hop hrun
  · obtain ⟨hidle, rfl⟩ := execStart_eq_next h
    exact .start cmd rest hin hop hidle
  · exact answer (execRdreg_eq_next h)
  · exact answer (execRdpal_eq_next h)
  · exact answer (execRdout_eq_next h)
  all_goals cases h

/-- With no step in progress and no word at a unit, a step is a move of the host. -/
theorem step_atRest {s t : State} (hu : s.unitCmd = none) (hrest : atRest s.phase = true) (h : step s = .next t) :
    HostMove s t := by
  rw [step, fetch_atRest hu hrest, fetchHost] at h
  cases hin : s.inputs with
  | nil => rw [hin] at h; cases h
  | cons move rest =>
    rw [hin] at h
    cases move with
    | present m => cases h; exact .present m rest hin
    | command cmd => exact hostMove_of_command hin h

/-- Outside a run no step is in progress. -/
theorem atRest_of_not_running {s : State} (hc : s.Coherent) (hrun : s.status.running = false) :
    atRest s.phase = true := by
  have hall : ∀ (p : BitVec 5), (statusOfPhase p).any (fun st => !st.running) = true → atRest p = true := by
    decide
  exact hall s.phase (by simp [hc.status, hrun])

end Sys2Proof.Machine

namespace Sys2Proof.Statements
open Sys2Proof.Machine

/-- Settles O43: of the host's moves only RESET changes a register in DONE or FAILED, START being refused there. -/
theorem terminalStatusEndsOnlyByReset : Obligations.TerminalStatusEndsOnlyByReset := by
  intro s t hc hend hstep
  have hrun : s.status.running = false := by rcases hend with h | h <;> rw [h] <;> rfl
  cases step_atRest hc.unit (atRest_of_not_running hc hrun) hstep with
  | present => exact .inl ⟨rfl, rfl, rfl, rfl, rfl, rfl, rfl, rfl, rfl⟩
  | reset cmd rest hin hop => exact .inr ⟨cmd, rest, hin, hop, hrun, rfl⟩
  | start cmd rest hin hop hidle => simp [hidle] at hend
  | answer => exact .inl ⟨rfl, rfl, rfl, rfl, rfl, rfl, rfl, rfl, rfl⟩

end Sys2Proof.Statements
end

section
/-! What each sequencer step does to the registers that its reads do not write: a header step touches the cursor, the
metadata and the palette and then moves on, a decoder step the cursor and the pixel unit. Said for any predicate of the
state that does not see those registers. -/
namespace Sys2Proof.Machine

variable {P Q : State → Prop}

/-- The state seen without what the reads of a header step write: cursor, pixel unit, metadata, palette. -/
def State.control (s : State) : State := { s.frame with md := Metadata.unwritten, pal := none }

/-- The predicate depends on nothing but what the view shows. -/
def Sees (view : State → State) (P : State → Prop) : Prop := ∀ s, P (view s) ↔ P s

theorem Sees.congr {view : State → State} (hP : Sees view P) {s t : State} (h : view t = view s) (hs : P s) : P t :=
  (hP t).mp (h ▸ (hP s).mpr hs)

/-- The operation keeps the predicate, whether it ends well or raises. -/
abbrev Holds {α : Type} (P : State → Prop) (op : Op α) : Prop := Keeps P (fun _ => True) op

theorem KeepsFrame.holds {α : Type} {op : Op α} (hop : KeepsFrame op) (hP : Sees State.frame P) : Holds P op := by
  intro s hs
  have h := hop s
  unfold endState at h
  cases hr : op s with
  | ok a t => rw [hr] at h; exact hP.congr h hs
  | error r t => rw [hr] at h; exact ⟨hP.congr h hs, trivial⟩

/-- The operation has ended well in a state of `Q`, or raised in a state of `P`. -/
def LeadsIn (P Q : State → Prop) : EStateM.Result Raise State Unit → Prop
  | .ok _ t => Q t
  | .error _ t => P t

/-- The operation goes from `P` to `Q`, or raises in a state of `P`. -/
def Leads (P Q : State → Prop) (op : Op Unit) : Prop := ∀ s, P s → LeadsIn P Q (op s)

theorem Leads.bind {α : Type} {m : Op α} {f : α → Op Unit} (hm : Holds P m) (hf : ∀ a, Leads P Q (f a)) :
    Leads P Q (m >>= f) := by
  intro s hs
  have h := hm s hs
  rw [op_bind]
  cases hr : m s with
  | ok a t => rw [hr] at h; exact hf a t h
  | error r t => rw [hr] at h; exact h.1

theorem Leads.update {f : State → State} (hf : ∀ s, P s → Q (f s)) : Leads P Q (update f) := hf

theorem Leads.raise (kind : ErrKind) (info : Nat) : Leads P Q (raise kind info) := fun _ hs => hs

theorem Leads.ite {c : Prop} [Decidable c] {op₁ op₂ : Op Unit} (h₁ : Leads P Q op₁) (h₂ : Leads P Q op₂) :
    Leads P Q (if c then op₁ else op₂) := by
  split
  · exact h₁
  · exact h₂

theorem Leads.iteState {c : State → Prop} [DecidablePred c] {op₁ op₂ : State → Op Unit}
    (h₁ : ∀ s, Leads P Q (op₁ s)) (h₂ : ∀ s, Leads P Q (op₂ s)) :
    Leads P Q fun s => if c s then op₁ s s else op₂ s s := by
  intro s hs
  show LeadsIn P Q (if c s then op₁ s s else op₂ s s)
  split
  · exact h₁ s s hs
  · exact h₂ s s hs

theorem Leads.runStep {op : Op Unit} {code : BitVec 5} {s : State} (hop : Leads P Q op) (hs : P s)
    (hfault : ∀ r t, P t → Q (takeFault r code t)) : Q (runStep code op s) := by
  have h := hop s hs
  cases hr : op s with
  | ok u t => rw [hr] at h; rw [runStep_ok code hr]; exact h
  | error r t => rw [hr] at h; rw [runStep_error code hr]; exact hfault r t h

/-- The ways on from `P` of the header step `code`, each ending in `Q`: a fault, the next phase code, after H_MASKS the
end of the parse (R151, R171). -/
structure HeaderMoves (P Q : State → Prop) (code : BitVec 5) : Prop where
  fault      : ∀ r t, P t → Q (takeFault r code t)
  next       : code.toNat ≤ 16 → ∀ t, P t → Q { t with phase := code + 1 }
  endOfParse : code = Phase.hMasks → ∀ t, P t →
    Q { t with mdValid := true, status := .decoding, phase := Phase.dChkcomp }

/-- The ways on from `P` of the decoder step `code`, each ending in `Q` (R191 to R199). -/
structure DecoderMoves (P Q : State → Prop) (code : BitVec 5) : Prop where
  fault    : ∀ r t, P t → Q (takeFault r code t)
  next     : code.toNat ≤ 20 → ∀ t, P t → Q { t with phase := code + 1 }
  alloc    : code = Phase.dAlloc → ∀ t, P t → Q (allocOutput t)
  rowStart : code = Phase.dRowstart → ∀ t, P t → Q (startRow t)
  pixel    : code = Phase.dPixel → ∀ t out x next, P t → next = Phase.dPixel ∨ next = Phase.dRowend →
    Q { t with out := out, x := x, phase := next }
  nextRow  : code = Phase.dRowend → ∀ t y, P t → Q { t with y := y, phase := Phase.dRowstart }
  lastRow  : code = Phase.dRowend → ∀ t, P t → Q { t with phase := Phase.dFinish }
  finish   : code = Phase.dFinish → ∀ t, P t → Q (finish t)

theorem nextIn_of_eq_next {o : Out} (h : ∀ t, o = .next t → Q t) : NextIn Q o := by
  cases o with
  | next t => exact h t rfl
  | fault r => trivial
  | refused r => trivial

/-! ### The cursor -/

theorem KeepsFrame.seek (p : Nat) : KeepsFrame (seek p) := by
  intro s
  unfold endState
  by_cases h : p ≤ s.buf.len
  · rw [seek_ok p s h]; rfl
  · rw [seek_error p s (Nat.lt_of_not_le h)]

theorem KeepsFrame.skip (n : Nat) : KeepsFrame (skip n) := fun s => KeepsFrame.seek (s.pos + n) s

/-! ### The header steps -/

section Header
variable (hP : Sees State.control P)
include hP

theorem Sees.frame_of_control : Sees State.frame P := fun s => (hP s.frame).symm.trans (hP s)

theorem cursorRead_holds {α : Type} (n : Nat) (value : State → α) : Holds P (cursorRead n value) :=
  (KeepsFrame.cursorRead n value).holds hP.frame_of_control

/-- A register write that the view does not show; for the header steps' writes that is seen by `rfl`. -/
theorem hiddenWrite_holds {f : State → State} (hf : ∀ s, (f s).control = s.control := by intro _; rfl) :
    Holds P (update f) := Keeps.update fun s hs => hP.congr (hf s) hs

theorem readField32_leads {write : U32 → Metadata → Metadata} {next : BitVec 5}
    (hnext : ∀ s, P s → Q { s with phase := next }) : Leads P Q (readField32 write next) :=
  .bind (cursorRead_holds hP 4 _) fun _ => .bind (hiddenWrite_holds hP) fun _ => .update hnext

theorem readField16_leads {write : U16 → Metadata → Metadata} {next : BitVec 5}
    (hnext : ∀ s, P s → Q { s with phase := next }) : Leads P Q (readField16 write next) :=
  .bind (cursorRead_holds hP 2 _) fun _ => .bind (hiddenWrite_holds hP) fun _ => .update hnext

theorem stepSig_leads (hnext : ∀ s, P s → Q { s with phase := Phase.hFilesize }) : Leads P Q stepSig :=
  .bind (cursorRead_holds hP 2 _) fun _ => .ite (.raise _ _) (.update hnext)

theorem stepReserved_leads (hnext : ∀ s, P s → Q { s with phase := Phase.hDataoffset }) : Leads P Q stepReserved :=
  .bind (cursorRead_holds hP 4 _) fun _ => .update hnext

theorem stepColors_leads (hnext : ∀ s, P s → Q { s with phase := Phase.hImpcolors }) : Leads P Q stepColors :=
  .bind (cursorRead_holds hP 4 _) fun _ => .bind (hiddenWrite_holds hP) fun _ => .update hnext

theorem stepImpcolors_leads (hnext : ∀ s, P s → Q { s with phase := Phase.hPalette }) : Leads P Q stepImpcolors :=
  .bind (cursorRead_holds hP 4 _) fun _ => .bind (hiddenWrite_holds hP) fun _ => .update hnext

theorem readPaletteEntries_holds (n i : Nat) : Holds P (readPaletteEntries n i) := by
  induction n generalizing i with
  | zero => exact .pure ()
  | succ n ih =>
    have byte : Holds P rdu8 := cursorRead_holds hP 1 _
    have entry : Holds P (readPaletteEntry i) :=
      byte.bind fun _ => byte.bind fun _ => byte.bind fun _ =>
        ((KeepsFrame.skip 1).holds hP.frame_of_control).bind fun _ => hiddenWrite_holds hP
    exact entry.bind fun _ => ih (i + 1)

theorem stepPalette_leads (hnext : ∀ s, P s → Q { s with phase := Phase.hMasks }) : Leads P Q stepPalette :=
  .iteState
    (fun _ => Leads.bind (hiddenWrite_holds hP) fun _ => .bind (readPaletteEntries_holds hP _ 0) fun _ => .update hnext)
    fun _ => Leads.bind (hiddenWrite_holds hP) fun _ => .update hnext

theorem stepMasks_leads
    (hend : ∀ s, P s → Q { s with mdValid := true, status := .decoding, phase := Phase.dChkcomp }) :
    Leads P Q stepMasks :=
  have mask := cursorRead_holds hP 4 fun s => s.buf.u32At s.pos
  .iteState
    (fun _ => Leads.bind mask fun _ => .bind (hiddenWrite_holds hP) fun _ => .bind mask fun _ =>
      .bind (hiddenWrite_holds hP) fun _ => .bind mask fun _ => .bind (hiddenWrite_holds hP) fun _ => .update hend)
    fun _ => Leads.bind (hiddenWrite_holds hP) fun _ => .update hend

/-- Every header step makes one of the moves of `HeaderMoves` (R151, R171). -/
theorem exec_header {i : Instr} {code : BitVec 5} {s : State} (hi : encode i = some (.ph code))
    (hcode : code.toNat ≤ 17) (hs : P s) (hmoves : HeaderMoves P Q code) : NextIn Q (exec i s) := by
  obtain ⟨hfault, hnext, hend⟩ := hmoves
  cases i with
  | hSig => cases hi; exact (stepSig_leads hP (hnext (by decide))).runStep hs hfault
  | hReserved => cases hi; exact (stepReserved_leads hP (hnext (by decide))).runStep hs hfault
  | hFilesize | hDataoffset | hDibsize | hWidth | hHeight | hCompression | hDatasize | hResh | hResv =>
    cases hi; exact (readField32_leads hP (hnext (by decide))).runStep hs hfault
  | hPlanes | hBpp => cases hi; exact (readField16_leads hP (hnext (by decide))).runStep hs hfault
  | hColors => cases hi; exact (stepColors_leads hP (hnext (by decide))).runStep hs hfault
  | hImpcolors => cases hi; exact (stepImpcolors_leads hP (hnext (by decide))).runStep hs hfault
  | hPalette => cases hi; exact (stepPalette_leads hP (hnext (by decide))).runStep hs hfault
  | hMasks => cases hi; exact (stepMasks_leads hP (hend rfl)).runStep hs hfault
  | dChkcomp | dChkdepth | dSeek | dAlloc | dRowstart | dPixel | dRowend | dFinish =>
    cases hi; exact absurd hcode (by decide)
  | _ => simp [encode] at hi

end Header

/-! ### The decoder control steps -/

theorem stepChkcomp_leads (hnext : ∀ s, P s → Q { s with phase := Phase.dChkdepth }) : Leads P Q stepChkcomp :=
  .iteState (fun _ => .update hnext) fun _ => .raise _ _

theorem stepChkdepth_leads (hnext : ∀ s, P s → Q { s with phase := Phase.dSeek }) : Leads P Q stepChkdepth :=
  .iteState (fun _ => .update hnext) fun _ => .raise _ _

theorem stepSeek_leads (hP : Sees State.frame P) (hnext : ∀ s, P s → Q { s with phase := Phase.dAlloc }) :
    Leads P Q stepSeek :=
  fun s => Leads.bind ((KeepsFrame.seek s.dataOffset.toNat).holds hP) (fun _ => .update hnext) s

theorem stepRowend_leads (hP : Sees State.frame P) (hlast : ∀ s, P s → Q { s with phase := Phase.dFinish })
    (hrow : ∀ s y, P s → Q { s with y := y, phase := Phase.dRowstart }) : Leads P Q stepRowend := by
  intro s
  refine Leads.bind ((KeepsFrame.skip (padBytes s.rowBytes)).holds hP) (fun _ => Leads.bind ?_ fun _ => .update ?_) s
  · exact Keeps.update fun t ht => hP.congr (s := t) rfl ht
  · intro t ht
    split
    · exact hlast t ht
    · exact hrow t _ ht

theorem execDAlloc_eq_next {s t : State} (h : execDAlloc s = .next t) : t = allocOutput s := by
  unfold execDAlloc at h
  split at h <;> cases h
  rfl

/-- D_PIXEL's next states: a pixel stored at `y*width + x`, or a fault of the pixel operation, which has changed only
the cursor and the pixel unit (R197, R230). -/
theorem execDPixel_eq_next {s t : State} (h : execDPixel s = .next t) :
    ∃ s', s'.frame = s.frame ∧
      ((∃ r, t = takeFault r Phase.dPixel s') ∨
        ∃ st p, s'.out = some st ∧
          t = { s' with out := some (st.set s'.outIndex p), x := some (s'.column + 1)
                        phase := if s'.column.toNat + 1 < s'.width.toNat then Phase.dPixel else Phase.dRowend }) := by
  unfold execDPixel at h
  split at h
  · cases h
  · rename_i f _
    have hframe := pixelOp_keepsFrame f s
    unfold endState at hframe
    cases hr : pixelOp f s with
    | ok p s' =>
      rw [hr] at h hframe
      refine ⟨s', hframe, .inr ?_⟩
      simp only [storePixel] at h
      split at h
      · cases h
      · rename_i st hout
        split at h <;> cases h
        exact ⟨st, p, hout, rfl⟩
    | error r s' =>
      rw [hr] at h hframe
      cases h
      exact ⟨s', hframe, .inl ⟨r, rfl⟩⟩

/-- Every decoder step makes one of the moves of `DecoderMoves`. -/
theorem exec_decoder (hP : Sees State.frame P) {i : Instr} {code : BitVec 5} {s : State}
    (hi : encode i = some (.ph code)) (hcode : 18 ≤ code.toNat) (hs : P s) (hmoves : DecoderMoves P Q code) :
    NextIn Q (exec i s) := by
  cases i with
  | dChkcomp => cases hi; exact (stepChkcomp_leads (hmoves.next (by decide))).runStep hs hmoves.fault
  | dChkdepth => cases hi; exact (stepChkdepth_leads (hmoves.next (by decide))).runStep hs hmoves.fault
  | dSeek => cases hi; exact (stepSeek_leads hP (hmoves.next (by decide))).runStep hs hmoves.fault
  | dAlloc =>
    cases hi
    exact nextIn_of_eq_next fun t h => execDAlloc_eq_next h ▸ hmoves.alloc rfl s hs
  | dRowstart => cases hi; exact hmoves.rowStart rfl s hs
  | dPixel =>
    cases hi
    refine nextIn_of_eq_next fun t h => ?_
    obtain ⟨s', hframe, ⟨r, rfl⟩ | ⟨st, p, -, rfl⟩⟩ := execDPixel_eq_next h
    · exact hmoves.fault r s' (hP.congr hframe hs)
    · exact hmoves.pixel rfl s' _ _ _ (hP.congr hframe hs) (ite_eq_or_eq _ _ _)
  | dRowend =>
    cases hi
    exact (stepRowend_leads hP (hmoves.lastRow rfl) (hmoves.nextRow rfl)).runStep hs hmoves.fault
  | dFinish => cases hi; exact hmoves.finish rfl s hs
  | hSig | hFilesize | hReserved | hDataoffset | hDibsize | hWidth | hHeight | hPlanes | hBpp | hCompression
  | hDatasize | hResh | hResv | hColors | hImpcolors | hPalette | hMasks => cases hi; exact absurd hcode (by decide)
  | _ => simp [encode] at hi

end Sys2Proof.Machine
end

section
/-! A step of the decode leaves metadata, masks and palette as the parse made them (R40). -/
namespace Sys2Proof.Machine

/-- The decoder does not write metadata, masks, palette and `mdValid`. -/
def State.SameParse (s t : State) : Prop := t.md = s.md ∧ t.pal = s.pal ∧ t.mdValid = s.mdValid

theorem decoderMoves_sameParse (s : State) (code : BitVec 5) : DecoderMoves s.SameParse s.SameParse code where
  fault _ _ ht := ht
  next _ _ ht := ht
  alloc _ t ht := by simpa [State.SameParse] using ht
  rowStart _ _ ht := ht
  pixel _ _ _ _ _ ht _ := ht
  nextRow _ _ _ ht := ht
  lastRow _ _ ht := ht
  finish _ _ ht := ht

/-- A decoder step leaves metadata, masks and palette as they are. -/
theorem exec_sameParse {i : Instr} {code : BitVec 5} {s : State} (hi : encode i = some (.ph code))
    (hcode : 18 ≤ code.toNat) : NextIn s.SameParse (exec i s) :=
  exec_decoder (fun _ => Iff.rfl) hi hcode ⟨rfl, rfl, rfl⟩ (decoderMoves_sameParse s code)

/-- A coherent state is in a run, or no step is in progress (R259). -/
theorem running_or_atRest {s : State} (hc : s.Coherent) :
    (s.status = .parsing ∨ s.status = .decoding) ∨ atRest s.phase = true := by
  cases hst : s.status with
  | parsing => exact .inl (.inl rfl)
  | decoding => exact .inl (.inr rfl)
  | idle | done | failed => exact .inr (atRest_of_not_running hc (by rw [hst]; rfl))

/-- In a run `progress` is the phase code. -/
theorem progress_of_running {s : State} (hr : s.status = .parsing ∨ s.status = .decoding) :
    s.progress = s.phase.toNat := by
  rcases hr with h | h <;> simp [State.progress, h]

end Sys2Proof.Machine

namespace Sys2Proof.Statements
open Sys2Proof.Machine

/-- Settles O44: a run with `mdValid` set is in the decoder, whose steps leave the parse as it is; outside a run the
state has ended, and START is admitted in IDLE only, where `mdValid` is clear. -/
theorem metadataAreImmutableAfterTheParse : Obligations.MetadataAreImmutableAfterTheParse := by
  intro s t hc hvalid hstep
  rcases running_or_atRest hc with hrun | hrest
  · have hcode : 18 ≤ s.phase.toNat := by
      have h := hc.mdValid
      rw [hvalid, progress_of_running hrun] at h
      exact of_decide_eq_true h.symm
    obtain ⟨i, hdecode, hexec⟩ := step_running hc hrun hstep
    have hsame := exec_sameParse (s := s) (encode_of_decodePH hdecode) hcode
    rw [hexec] at hsame
    obtain ⟨hmd, hpal, hmdValid⟩ := hsame
    exact .inl ⟨hmd, hpal, hmdValid.trans hvalid⟩
  · cases step_atRest hc.unit hrest hstep with
    | present => exact .inl ⟨rfl, rfl, hvalid⟩
    | reset cmd rest hin hop hrun => exact .inr ⟨cmd, rest, hin, hop, hrun, rfl⟩
    | start cmd rest hin hop hidle =>
      have hreset : s.mdValid = false := by rw [hc.idle hidle]; rfl
      simp [hreset] at hvalid
    | answer => exact .inl ⟨rfl, rfl, hvalid⟩

end Sys2Proof.Statements
end

section
/-! The agreement of the control registers (R40, R49, R50, R301): a coherent run is in one sequencer step, and every way
on from there, as every move of the host, leads to a coherent state. -/
namespace Sys2Proof.Machine
open Sys2Proof.Statements

/-- The control registers of a run in the sequencer step `code`. -/
structure State.InStep (code : BitVec 5) (s : State) : Prop where
  phase   : s.phase = code
  range   : 1 ≤ code.toNat ∧ code.toNat ≤ 25
  status  : statusOfPhase code = some s.status
  mdValid : s.mdValid = decide (18 ≤ code.toNat)
  err     : s.err = none
  prof    : s.prof = none
  unit    : s.unitCmd = none

theorem inStep_sees_control (code : BitVec 5) : Sees State.control (State.InStep code) :=
  fun _ => ⟨fun ⟨h₁, h₂, h₃, h₄, h₅, h₆, h₇⟩ => ⟨h₁, h₂, h₃, h₄, h₅, h₆, h₇⟩,
    fun ⟨h₁, h₂, h₃, h₄, h₅, h₆, h₇⟩ => ⟨h₁, h₂, h₃, h₄, h₅, h₆, h₇⟩⟩

/-- A step's phase code stands for a status of a run. -/
theorem running_of_range {code : BitVec 5} {st : Status} (hrange : 1 ≤ code.toNat ∧ code.toNat ≤ 25)
    (hst : statusOfPhase code = some st) : st = .parsing ∨ st = .decoding := by
  have hall : ∀ c : BitVec 5, 1 ≤ c.toNat ∧ c.toNat ≤ 25 →
      statusOfPhase c = some .parsing ∨ statusOfPhase c = some .decoding := by decide
  simpa [hst] using hall code hrange

theorem range_of_running {code : BitVec 5} {st : Status} (hst : statusOfPhase code = some st)
    (hr : st = .parsing ∨ st = .decoding) : 1 ≤ code.toNat ∧ code.toNat ≤ 25 := by
  have hall : ∀ c : BitVec 5, statusOfPhase c = some .parsing ∨ statusOfPhase c = some .decoding →
      1 ≤ c.toNat ∧ c.toNat ≤ 25 := by decide
  exact hall code (by simpa [hst] using hr)

theorem State.InStep.running {code : BitVec 5} {s : State} (h : s.InStep code) :
    s.status = .parsing ∨ s.status = .decoding := running_of_range h.range h.status

theorem State.InStep.coherent {code : BitVec 5} {s : State} (h : s.InStep code) : s.Coherent := by
  have hrun := h.running
  obtain ⟨rfl, hrange, hst, hvalid, herr, hprof, hunit⟩ := h
  exact
    { status := hst
      err := by rcases hrun with h | h <;> simp [herr, h]
      errStep := by simp [herr]
      mdValid := by rw [hvalid, progress_of_running hrun]
      prof := by simp [hprof]
      unit := hunit
      idle := by rcases hrun with h | h <;> simp [h] }

theorem inStep_of_running {s : State} (hc : s.Coherent) (hr : s.status = .parsing ∨ s.status = .decoding) :
    s.InStep s.phase where
  phase := rfl
  range := range_of_running hc.status hr
  status := hc.status
  mdValid := by rw [hc.mdValid, progress_of_running hr]
  err := err_of_running hc hr
  prof := by
    have hnot : s.status ≠ .done := by intro h; simp [h] at hr
    exact Option.not_isSome_iff_eq_none.mp fun h => hnot (hc.prof h)
  unit := hc.unit

/-! ### The ways on from a sequencer step -/

theorem takeFault_coherent {code : BitVec 5} {s : State} (r : Raise) (h : s.InStep code) :
    (takeFault r code s).Coherent where
  status := rfl
  err := rfl
  errStep e he := by rw [takeFault_err] at he; cases he; exact h.range
  mdValid := h.mdValid
  prof := by simp [h.prof]
  unit := h.unit
  idle := by simp

theorem finish_coherent {code : BitVec 5} {s : State} (hcode : code = Phase.dFinish) (h : s.InStep code) :
    (finish s).Coherent where
  status := rfl
  err := by simp [h.err]
  errStep := by simp [h.err]
  mdValid := by rw [finish_mdValid, h.mdValid, hcode]; rfl
  prof _ := rfl
  unit := h.unit
  idle := by simp

/-- The two codes are held in the same status, both before the end of the parse or both after it. -/
abbrev SameStage (code next : BitVec 5) : Prop :=
  (1 ≤ next.toNat ∧ next.toNat ≤ 25) ∧ statusOfPhase next = statusOfPhase code ∧
    (18 ≤ next.toNat ↔ 18 ≤ code.toNat)

/-- Moving on within the parse or within the decode keeps the control registers in agreement. -/
theorem State.InStep.coherent_moveTo {code next : BitVec 5} {s t : State} (h : s.InStep code)
    (hstage : SameStage code next) (hphase : t.phase = next)
    (hsame : (t.status, t.mdValid, t.err, t.prof, t.unitCmd) = (s.status, s.mdValid, s.err, s.prof, s.unitCmd)) :
    t.Coherent := by
  obtain ⟨hrange, hstatus, hvalid⟩ := hstage
  simp only [Prod.mk.injEq] at hsame
  obtain ⟨hst, hmd, herr, hprof, hunit⟩ := hsame
  have hnext : t.InStep next :=
    { phase := hphase
      range := hrange
      status := by rw [hstatus, hst, h.status]
      mdValid := by rw [hmd, h.mdValid, decide_eq_decide, hvalid]
      err := herr.trans h.err
      prof := hprof.trans h.prof
      unit := hunit.trans h.unit }
  exact hnext.coherent

theorem sameStage_succ {code : BitVec 5} (h : 1 ≤ code.toNat ∧ code.toNat ≤ 16 ∨ 18 ≤ code.toNat ∧ code.toNat ≤ 20) :
    SameStage code (code + 1) := by
  revert code; decide

theorem headerMoves_coherent (code : BitVec 5) : HeaderMoves (State.InStep code) State.Coherent code where
  fault r _ h := takeFault_coherent r h
  next hcode _ h := h.coherent_moveTo (sameStage_succ (.inl ⟨h.range.1, hcode⟩)) rfl rfl
  endOfParse hcode t h := by
    subst hcode
    have hnext : { t with mdValid := true, status := .decoding, phase := Phase.dChkcomp }.InStep Phase.dChkcomp :=
      ⟨rfl, by decide, rfl, rfl, h.err, h.prof, h.unit⟩
    exact hnext.coherent

theorem decoderMoves_coherent {code : BitVec 5} (hdecode : 18 ≤ code.toNat) :
    DecoderMoves (State.InStep code) State.Coherent code where
  fault r _ h := takeFault_coherent r h
  next hcode _ h := h.coherent_moveTo (sameStage_succ (.inr ⟨hdecode, hcode⟩)) rfl rfl
  alloc hcode t h := by
    subst hcode
    by_cases h0 : t.height = 0
    · exact h.coherent_moveTo (next := Phase.dFinish) (by decide) ((allocOutput_phase t).trans (if_pos h0)) (by simp)
    · exact h.coherent_moveTo (next := Phase.dRowstart) (by decide) ((allocOutput_phase t).trans (if_neg h0)) (by simp)
  rowStart hcode t h := by
    subst hcode
    by_cases h0 : t.width = 0
    · exact h.coherent_moveTo (next := Phase.dRowend) (by decide) ((startRow_phase t).trans (if_pos h0)) rfl
    · exact h.coherent_moveTo (next := Phase.dPixel) (by decide) ((startRow_phase t).trans (if_neg h0)) rfl
  pixel hcode _ _ _ _ h hnext := by
    subst hcode
    rcases hnext with rfl | rfl
    · exact h.coherent_moveTo (next := Phase.dPixel) (by decide) rfl rfl
    · exact h.coherent_moveTo (next := Phase.dRowend) (by decide) rfl rfl
  nextRow hcode _ _ h := by subst hcode; exact h.coherent_moveTo (next := Phase.dRowstart) (by decide) rfl rfl
  lastRow hcode _ h := by subst hcode; exact h.coherent_moveTo (next := Phase.dFinish) (by decide) rfl rfl
  finish hcode _ h := finish_coherent hcode h

theorem exec_coherent {i : Instr} {code : BitVec 5} {s : State} (hi : encode i = some (.ph code))
    (h : s.InStep code) : NextIn State.Coherent (exec i s) := by
  by_cases hcode : code.toNat ≤ 17
  · exact exec_header (inStep_sees_control code) hi hcode h (headerMoves_coherent code)
  · have hdecode : 18 ≤ code.toNat := by omega
    exact exec_decoder (inStep_sees_control code).frame_of_control hi hdecode h (decoderMoves_coherent hdecode)

/-! ### The host's moves -/

theorem resetRegisters_coherent {s : State} (hu : s.unitCmd = none) : (resetRegisters s).Coherent where
  status := rfl
  err := rfl
  errStep e he := by cases he
  mdValid := rfl
  prof h := by cases h
  unit := hu
  idle _ := rfl

/-- The host's presenting a source and the answer to a read change no control register. -/
theorem State.Coherent.withHost {s : State} (hc : s.Coherent) (m : Memory) (rest : List HostInput) (r : Option Result) :
    { s with source := m, inputs := rest, hostResult := r }.Coherent where
  status := hc.status
  err := hc.err
  errStep := hc.errStep
  mdValid := hc.mdValid
  prof := hc.prof
  unit := hc.unit
  idle h := by
    obtain ⟨⟩ := s
    have hreset := hc.idle h
    simp only [resetRegisters, State.mk.injEq] at hreset ⊢
    simp [hreset]

theorem startSession_coherent {s : State} (hc : s.Coherent) (hidle : s.status = .idle) :
    (startSession s).Coherent := by
  have hreset := hc.idle hidle
  have : (startSession s).InStep Phase.hSig :=
    ⟨rfl, by decide, rfl, by rw [hreset]; rfl, by rw [hreset]; rfl, by rw [hreset]; rfl, hc.unit⟩
  exact this.coherent

theorem hostMove_coherent {s t : State} (hc : s.Coherent) (h : HostMove s t) : t.Coherent := by
  cases h with
  | present m rest => exact hc.withHost m rest s.hostResult
  | reset cmd rest => exact resetRegisters_coherent hc.unit
  | start cmd rest hin hop hidle => exact startSession_coherent (hc.withHost s.source rest s.hostResult) hidle
  | answer r cmd rest => exact hc.withHost s.source rest (some r)

end Sys2Proof.Machine

namespace Sys2Proof.Statements
open Sys2Proof.Machine

/-- Settles O50: in a run by the moves of the sequencer step, outside a run by the host's moves. -/
theorem stepsKeepControlCoherent : Obligations.StepsKeepControlCoherent := by
  intro s t hc hstep
  rcases running_or_atRest hc with hrun | hrest
  · obtain ⟨i, hdecode, hexec⟩ := step_running hc hrun hstep
    have h := exec_coherent (encode_of_decodePH hdecode) (inStep_of_running hc hrun)
    rwa [hexec] at h
  · exact hostMove_coherent hc (step_atRest hc.unit hrest hstep)

end Sys2Proof.Statements
end

section
/-! The output: no operation but D_ALLOC, D_PIXEL and RESET touches it, and D_PIXEL writes one entry (R46, R69, R78). -/
namespace Sys2Proof.Machine
open Sys2Proof.Statements

/-- The output is as in `s`. -/
def State.SameOutput (s t : State) : Prop := t.out = s.out

theorem runUnit_sameOutput {op : Op Result} (hop : KeepsFrame op) (s : State) : s.SameOutput (runUnit op s) := by
  have h := hop.holds (P := s.SameOutput) (fun _ => Iff.rfl) s rfl
  cases hr : op s with
  | ok v t => rw [hr] at h; rw [runUnit_ok hr]; exact h
  | error r t => rw [hr] at h; rw [runUnit_error hr]; exact h.1

theorem runUnitVoid_sameOutput {op : Op Unit} (hop : KeepsFrame op) (s : State) :
    s.SameOutput (runUnitVoid op s) := by
  have h := hop.holds (P := s.SameOutput) (fun _ => Iff.rfl) s rfl
  cases hr : op s with
  | ok v t => rw [hr] at h; rw [runUnitVoid, runStep_ok _ hr]; exact h
  | error r t => rw [hr] at h; rw [runUnitVoid, runStep_error _ hr]; exact h.1

theorem cursorRead_sameOutput {α : Type} (n : Nat) (value : State → α) (result : α → Result) (s : State) :
    s.SameOutput (runUnit (cursorRead n value >>= fun v => pure (result v)) s) :=
  runUnit_sameOutput ((KeepsFrame.cursorRead n value).bind fun _ => .pure _) s

theorem returnPixel_sameOutput {op : Op Rgba8} (hop : KeepsFrame op) (s : State) :
    s.SameOutput (runUnit (returnPixel op) s) := runUnit_sameOutput (hop.bind fun _ => .pure _) s

theorem exec_header_sameOutput {i : Instr} {code : BitVec 5} {s : State} (hi : encode i = some (.ph code))
    (hcode : code.toNat ≤ 17) : NextIn s.SameOutput (exec i s) :=
  exec_header (fun _ => Iff.rfl) hi hcode (rfl : s.SameOutput s)
    ⟨fun _ _ h => h, fun _ _ h => h, fun _ _ h => h⟩

theorem decoderMoves_sameOutput (s : State) {code : BitVec 5} (ha : code ≠ Phase.dAlloc) (hp : code ≠ Phase.dPixel) :
    DecoderMoves s.SameOutput s.SameOutput code where
  fault _ _ h := h
  next _ _ h := h
  alloc h := absurd h ha
  rowStart _ _ h := h
  pixel h := absurd h hp
  nextRow _ _ _ h := h
  lastRow _ _ h := h
  finish _ _ h := h

theorem exec_decoder_sameOutput {i : Instr} {code : BitVec 5} {s : State} (hi : encode i = some (.ph code))
    (hcode : 18 ≤ code.toNat) (ha : code ≠ Phase.dAlloc) (hp : code ≠ Phase.dPixel) :
    NextIn s.SameOutput (exec i s) :=
  exec_decoder (fun _ => Iff.rfl) hi hcode (rfl : s.SameOutput s) (decoderMoves_sameOutput s ha hp)

theorem sameOutput_of_answered {o : Out} {s : State} (h : ∀ t, o = .next t → ∃ r, t = answered r s) :
    NextIn s.SameOutput o := nextIn_of_eq_next fun t ht => by obtain ⟨r, rfl⟩ := h t ht; rfl

theorem exec_sameOutput {i : Instr} (s : State) (ha : i ≠ .dAlloc) (hp : i ≠ .dPixel) (hr : i ≠ .reset) :
    NextIn s.SameOutput (exec i s) := by
  cases i with
  | rdu8 | rdu16 | rdu32 | rdstr n => exact cursorRead_sameOutput _ _ _ s
  | tell => exact rfl
  | seek p => exact runUnitVoid_sameOutput (.seek p) s
  | skip n => exact runUnitVoid_sameOutput (.skip n) s
  | hSig | hFilesize | hReserved | hDataoffset | hDibsize | hWidth | hHeight | hPlanes | hBpp | hCompression
  | hDatasize | hResh | hResv | hColors | hImpcolors | hPalette | hMasks =>
    exact exec_header_sameOutput rfl (by decide)
  | dChkcomp | dChkdepth | dSeek | dRowstart | dRowend | dFinish =>
    exact exec_decoder_sameOutput rfl (by decide) (by decide) (by decide)
  | px1 => exact returnPixel_sameOutput (pixelOp_keepsFrame .p1) s
  | px2 => exact returnPixel_sameOutput (pixelOp_keepsFrame .p2) s
  | px4 => exact returnPixel_sameOutput (pixelOp_keepsFrame .p4) s
  | px8 => exact returnPixel_sameOutput (pixelOp_keepsFrame .p8) s
  | px16 => exact returnPixel_sameOutput (pixelOp_keepsFrame .p16) s
  | px24 => exact returnPixel_sameOutput (pixelOp_keepsFrame .p24) s
  | px32 => exact returnPixel_sameOutput (pixelOp_keepsFrame .p32) s
  | unpack d => exact runUnit_sameOutput ((KeepsFrame.unpack d).bind fun _ => .pure _) s
  | lookup index => exact returnPixel_sameOutput (.lookup index) s
  | start => exact nextIn_of_eq_next fun t h => by rw [(execStart_eq_next h).2]; rfl
  | rdreg n => exact sameOutput_of_answered fun t h => execRdreg_eq_next h
  | rdpal index => exact sameOutput_of_answered fun t h => execRdpal_eq_next h
  | rdout index => exact sameOutput_of_answered fun t h => execRdout_eq_next h
  | reservedCc7 | reservedHc5 | reservedHc6 | reservedHc7 => trivial
  | dAlloc | dPixel | reset => contradiction

/-- D_PIXEL leaves every entry but the one at `y*width + x`. -/
theorem execDPixel_otherEntries {s t : State} {st : PixelStore} (h : execDPixel s = .next t) (hout : s.out = some st) :
    ∃ st', t.out = some st' ∧ st'.size = st.size ∧ ∀ j, j ≠ s.outIndex → st'.get j = st.get j := by
  obtain ⟨s', hframe, hcases⟩ := execDPixel_eq_next h
  have hout' : s'.out = some st := (congrArg State.out hframe).trans hout
  have hindex : s'.frame.outIndex = s.frame.outIndex := congrArg State.outIndex hframe
  obtain ⟨r, rfl⟩ | ⟨st', p, hst', rfl⟩ := hcases
  · exact ⟨st, hout', rfl, fun _ _ => rfl⟩
  · rw [hout'] at hst'
    cases hst'
    exact ⟨_, rfl, PixelStore.set_size .., fun j hj => PixelStore.get_set_other _ _ _ _ (hindex ▸ hj)⟩

end Sys2Proof.Machine

namespace Sys2Proof.Statements
open Sys2Proof.Machine

/-- Settles O46: each operation's moves and frame show `out` unwritten; what D_PIXEL stores has one index. -/
theorem onlyPixelStepsWriteTheOutput : Obligations.OnlyPixelStepsWriteTheOutput := by
  refine ⟨fun i s t hexec ha hp hr => ?_, fun s t st hexec hout => execDPixel_otherEntries hexec hout⟩
  have h := exec_sameOutput s ha hp hr
  rwa [hexec] at h

end Sys2Proof.Statements
end

section
/-! The result of a finished session: every pixel of the output can be read and is the one that the pixel array holds
(R47, R201, R256). -/
namespace Sys2Proof.Machine

/-- The pixel of index `i` in row-major order, in the closed form of R201. -/
def Memory.pixelOfIndex (m : Memory) (f : PixelFormat) (i : Nat) : Rgba8 :=
  m.pixelAt f (m.rowStart f (i / m.width)) (i % m.width)

section Done
variable {s : State} (hd : s.Decoded) (hdone : s.status = .done)
include hd hdone

theorem phase_of_done : s.phase = Phase.done := by
  have hall : ∀ p : BitVec 5, statusOfPhase p = some .done → p = Phase.done := by decide
  exact hall s.phase (hdone ▸ hd.parsed.coherent.status)

theorem progress_of_done : s.progress = 30 := by simp [State.progress, hdone, phase_of_done hd hdone, Phase.done]

theorem width_of_done : s.width.toNat = s.buf.width := by
  simp [State.width, Memory.width, hd.parsed.width, afterStep, progress_of_done hd hdone]

theorem height_of_done : s.height.toNat = s.buf.height := by
  simp [State.height, Memory.height, hd.parsed.height, afterStep, progress_of_done hd hdone]

theorem pixelCount_of_done : s.pixelCount = s.buf.width * s.buf.height := by
  rw [State.pixelCount, width_of_done hd hdone, height_of_done hd hdone]

theorem index_lt_pixelCount {x y : Nat} (hx : x < s.buf.width) (hy : y < s.buf.height) :
    y * s.buf.width + x < s.pixelCount := by
  rw [pixelCount_of_done hd hdone]
  nlinarith

/-- The host can read the pixel of every column and row, and it is the closed form of R201. -/
theorem readOutput_of_done {f : PixelFormat} (hf : formatOfDepth s.buf.depth = some f) {x y : Nat}
    (hx : x < s.buf.width) (hy : y < s.buf.height) :
    readOutput (y * s.buf.width + x) s = some (s.buf.pixelAt f (s.buf.rowStart f y) x) := by
  obtain ⟨-, st, hout, -, hget⟩ := hd.finished f hf (.inr (phase_of_done hd hdone))
  have hindex := index_lt_pixelCount hd hdone hx hy
  simp [readOutput, hdone, hindex, hout, hget y x hy hx (by omega)]

/-- Every index below `width*height` is that of a column and a row. -/
theorem readOutput_index_of_done {f : PixelFormat} (hf : formatOfDepth s.buf.depth = some f) {i : Nat}
    (hi : i < s.pixelCount) : readOutput i s = some (s.buf.pixelOfIndex f i) := by
  rw [pixelCount_of_done hd hdone] at hi
  have hw : 0 < s.buf.width := Nat.pos_of_mul_pos_right (Nat.zero_lt_of_lt hi)
  have h := readOutput_of_done hd hdone hf (Nat.mod_lt i hw) (Nat.div_lt_of_lt_mul hi)
  rwa [Nat.div_add_mod'] at h

/-- No index is left out of the image. -/
theorem pixels_of_done {f : PixelFormat} (hf : formatOfDepth s.buf.depth = some f) :
    ((List.range s.pixelCount).filterMap fun i => readOutput i s) =
      (List.range s.pixelCount).map (s.buf.pixelOfIndex f) := by
  rw [← List.filterMap_eq_map]
  exact List.filterMap_congr fun i hi => readOutput_index_of_done hd hdone hf (List.mem_range.mp hi)

end Done

end Sys2Proof.Machine

namespace Sys2Proof.Statements
open Sys2Proof.Machine

/-- Settles O54: no index of the image is left out, and what is read is the closed form. -/
theorem decodedImageIsComplete : Obligations.DecodedImageIsComplete := by
  intro s f hd hdone hf
  refine ⟨_, if_pos hdone, width_of_done hd hdone, height_of_done hd hdone, rfl, ?_, fun x y hx hy => ?_⟩
  · simpa only [pixels_of_done hd hdone hf, List.length_map, List.length_range] using pixelCount_of_done hd hdone
  · have hi := index_lt_pixelCount hd hdone hx hy
    simp only [pixels_of_done hd hdone hf, List.getElem?_map, List.getElem?_range hi, Option.map_some]
    exact (readOutput_index_of_done hd hdone hf hi).symm.trans (readOutput_of_done hd hdone hf hx hy)

end Sys2Proof.Statements
end

section
/-! An operation depends on no byte but those it consumes (R52, R137): run on another buffer of the same length that has
the same bytes between the cursor before and after it, it does the same. -/
namespace Sys2Proof.Machine

variable {α β : Type}

/-- The state with another buffer. -/
def State.withBuf (m : Memory) (s : State) : State := { s with buf := m }

/-- The buffer `m` has the length of the state's, and its bytes from the cursor up to the position `stop`. -/
def State.SameBytes (s : State) (m : Memory) (stop : Nat) : Prop :=
  m.len = s.buf.len ∧ ∀ a, s.pos ≤ a → a < stop → m.byteAt a = s.buf.byteAt a

/-- The same end with another buffer. -/
def resultWithBuf (m : Memory) : EStateM.Result Raise State α → EStateM.Result Raise State α
  | .ok v t => .ok v (t.withBuf m)
  | .error r t => .error r (t.withBuf m)

/-- The operation does the same on any other buffer with the same bytes from the cursor before to the one after it. -/
def DependsOnConsumed (op : Op α) : Prop :=
  ∀ s m, s.SameBytes m (endState op s).pos → op (s.withBuf m) = resultWithBuf m (op s)

/-- Such an operation, one that moves the cursor forward and leaves the buffer: these compose. -/
structure Consumes (op : Op α) : Prop where
  forward : MovesForward op
  buffer  : ∀ s, (endState op s).buf = s.buf
  depends : DependsOnConsumed op

theorem endState_ok {op : Op α} {s t : State} {a : α} (h : op s = .ok a t) : endState op s = t := by
  rw [endState, h]

theorem endState_bind_ok {m : Op α} {f : α → Op β} {s s' : State} {a : α} (h : m s = .ok a s') :
    endState (m >>= f) s = endState (f a) s' := by rw [endState, op_bind_ok h, endState]

theorem endState_bind_error {m : Op α} {f : α → Op β} {s s' : State} {r : Raise} (h : m s = .error r s') :
    endState (m >>= f) s = s' := by rw [endState, op_bind_error h]

theorem KeepsFrame.buf {op : Op α} (hop : KeepsFrame op) (s : State) : (endState op s).buf = s.buf := by
  have h : (endState op s).frame.buf = s.frame.buf := congrArg State.buf (hop s)
  exact h

theorem Consumes.bind {op : Op α} {f : α → Op β} (hop : Consumes op) (hf : ∀ a, Consumes (f a)) :
    Consumes (op >>= f) where
  forward := hop.forward.bind fun a => (hf a).forward
  buffer s := by
    have hbuf := hop.buffer s
    cases hs : op s with
    | ok a s' => rw [endState_ok hs] at hbuf; rw [endState_bind_ok hs, (hf a).buffer, hbuf]
    | error r s' => simp only [endState, hs] at hbuf; rw [endState_bind_error hs, hbuf]
  depends s m hm := by
    obtain ⟨hlen, hbytes⟩ := hm
    have hfirst := hop.depends s m
    cases hs : op s with
    | ok a s' =>
      have hbuf : s'.buf = s.buf := endState_ok hs ▸ hop.buffer s
      have hpos : s.pos ≤ s'.pos := endState_ok hs ▸ hop.forward s
      have hpos' := (hf a).forward s'
      rw [endState_bind_ok hs] at hbytes
      rw [endState_ok hs, hs] at hfirst
      rw [op_bind_ok (hfirst ⟨hlen, fun b hlo hhi => hbytes b hlo (by omega)⟩), op_bind_ok hs]
      exact (hf a).depends s' m ⟨hbuf ▸ hlen, fun b hlo hhi => hbuf ▸ hbytes b (by omega) hhi⟩
    | error r s' =>
      rw [endState_bind_error hs] at hbytes
      simp only [endState, hs] at hfirst
      rw [op_bind_error (hfirst ⟨hlen, hbytes⟩), op_bind_error hs]
      rfl

theorem Consumes.pure (a : α) : Consumes (Pure.pure a : Op α) := ⟨.pure a, fun _ => rfl, fun _ _ _ => rfl⟩

theorem Consumes.raise (kind : ErrKind) (info : Nat) : Consumes (raise kind info : Op α) :=
  ⟨fun _ => Nat.le_refl _, fun _ => rfl, fun _ _ _ => rfl⟩

/-- A value computed from the registers; that the buffer is none of them is seen by `rfl`. -/
theorem Consumes.ask {f : State → α} (hf : ∀ s m, f (s.withBuf m) = f s := by intro _ _; rfl) : Consumes (ask f) :=
  ⟨fun _ => Nat.le_refl _, fun _ => rfl, fun s m _ => by simp only [op_ask, hf]; rfl⟩

/-- A register write; that it neither reads nor writes the buffer, nor moves the cursor, is seen by `rfl`. -/
theorem Consumes.update {f : State → State} (hpos : ∀ s, (f s).pos = s.pos := by intro _; rfl)
    (hbuf : ∀ s m, f (s.withBuf m) = (f s).withBuf m ∧ (f s).buf = s.buf := by intro _ _; exact ⟨rfl, rfl⟩) :
    Consumes (update f) :=
  ⟨fun s => (hpos s).ge, fun s => (hbuf s s.buf).2, fun s m _ => by simp only [op_update, (hbuf s m).1]; rfl⟩

theorem Consumes.ite {c : Prop} [Decidable c] {op₁ op₂ : Op α} (h₁ : Consumes op₁) (h₂ : Consumes op₂) :
    Consumes (if c then op₁ else op₂) := by
  split
  · exact h₁
  · exact h₂

/-- An operation chosen by the registers; that the choice does not see the buffer is seen by `rfl`. -/
theorem Consumes.ofState {op : State → Op α} (hop : ∀ s, Consumes (op s))
    (hbuf : ∀ s m, op (s.withBuf m) = op s := by intro _ _; rfl) : Consumes fun s => op s s where
  forward s := (hop s).forward s
  buffer s := (hop s).buffer s
  depends s m hm := by
    show op (s.withBuf m) (s.withBuf m) = resultWithBuf m (op s s)
    rw [hbuf]
    exact (hop s).depends s m hm

theorem Consumes.iteState {c : State → Prop} [DecidablePred c] {op₁ op₂ : State → Op α}
    (h₁ : ∀ s, Consumes (op₁ s)) (h₂ : ∀ s, Consumes (op₂ s))
    (hbuf : ∀ s m, (if c (s.withBuf m) then op₁ (s.withBuf m) else op₂ (s.withBuf m)) =
      if c s then op₁ s else op₂ s := by intro _ _; rfl) :
    Consumes fun s => if c s then op₁ s s else op₂ s s := by
  have happly : (fun s => if c s then op₁ s s else op₂ s s) = fun s => (if c s then op₁ s else op₂ s) s := by
    funext s; by_cases h : c s <;> simp only [h, if_true, if_false]
  rw [happly]
  exact .ofState (fun s => .ite (h₁ s) (h₂ s)) hbuf

/-! ### The cursor operations -/

/-- SEEK reads no byte, wherever it goes. -/
theorem seek_withBuf (p : Nat) {s : State} {m : Memory} (hlen : m.len = s.buf.len) :
    seek p (s.withBuf m) = resultWithBuf m (seek p s) := by
  by_cases h : p ≤ s.buf.len
  · rw [seek_ok p s h, seek_ok p _ (h.trans_eq hlen.symm)]; rfl
  · rw [seek_error p s (Nat.lt_of_not_le h), seek_error p _ (hlen.trans_lt (Nat.lt_of_not_le h))]; rfl

theorem skip_consumes (n : Nat) : Consumes (skip n) where
  forward := .skip n
  buffer s := (KeepsFrame.skip n).buf s
  depends s _ hm := seek_withBuf (s.pos + n) hm.1

/-- A read whose value is made of the bytes it consumes. -/
theorem cursorRead_consumes {n : Nat} {value : State → α}
    (hvalue : ∀ s m, s.SameBytes m (s.pos + n) → value (s.withBuf m) = value s) : Consumes (cursorRead n value) where
  forward := .cursorRead n value
  buffer s := (KeepsFrame.cursorRead n value).buf s
  depends s m hm := by
    by_cases h : s.pos + n ≤ s.buf.len
    · have hok := cursorRead_ok n value s h
      rw [endState_ok hok] at hm
      have h' : s.pos + n ≤ m.len := hm.1 ▸ h
      rw [hok, cursorRead_ok n value (s.withBuf m) h', hvalue s m hm]
      rfl
    · have h' : m.len < s.pos + n := hm.1 ▸ Nat.lt_of_not_le h
      rw [cursorRead_error n value s (Nat.lt_of_not_le h), cursorRead_error n value (s.withBuf m) h']
      rfl

theorem State.SameBytes.byteAt {s : State} {m : Memory} {n k : Nat} (h : s.SameBytes m (s.pos + n)) (hk : k < n) :
    m.byteAt (s.pos + k) = s.buf.byteAt (s.pos + k) := h.2 _ (Nat.le_add_right _ _) (Nat.add_lt_add_left hk _)

theorem rdu8_consumes : Consumes rdu8 := cursorRead_consumes fun _ _ h => h.byteAt (k := 0) (by decide)

theorem rdu16_consumes : Consumes rdu16 := cursorRead_consumes fun s m h => by
  show m.u16At s.pos = s.buf.u16At s.pos
  have h0 : m.byteAt s.pos = s.buf.byteAt s.pos := h.byteAt (k := 0) (by decide)
  rw [Memory.u16At, Memory.u16At, h0, h.byteAt (k := 1) (by decide)]

theorem rdu32_consumes : Consumes rdu32 := cursorRead_consumes fun s m h => by
  show m.u32At s.pos = s.buf.u32At s.pos
  have h0 : m.byteAt s.pos = s.buf.byteAt s.pos := h.byteAt (k := 0) (by decide)
  rw [Memory.u32At, Memory.u32At, h0, h.byteAt (k := 1) (by decide), h.byteAt (k := 2) (by decide),
    h.byteAt (k := 3) (by decide)]

theorem rdstr_consumes (n : Nat) : Consumes (rdstr n) := cursorRead_consumes fun _ _ h =>
  List.map_congr_left fun _ hk => congrArg latin1 (h.byteAt (List.mem_range.mp hk))

/-! ### The pixel operations -/

theorem countRowBytes_consumes (n : Nat) : Consumes (countRowBytes n) := .update

theorem consumeBits_consumes (bpp : Nat) : Consumes (consumeBits bpp) := by
  refine ⟨fun s => ?_, fun s => (KeepsFrame.consumeBits bpp).buf s, fun s m _ => ?_⟩
  · by_cases h : bpp ≤ s.bitsRemaining.val <;> simp [endState, consumeBits, h]
  · by_cases h : bpp ≤ s.bitsRemaining.val <;> simp [consumeBits, State.withBuf, resultWithBuf, h]

theorem unpack_consumes (d : SubDepth) : Consumes (unpack d) :=
  have fetchByte_consumes : Consumes fetchByte :=
    rdu8_consumes.bind fun _ => (countRowBytes_consumes 1).bind fun _ => .update
  .iteState (fun _ => fetchByte_consumes.bind fun _ => consumeBits_consumes _) fun _ => consumeBits_consumes _

theorem lookup_consumes (index : Nat) : Consumes (lookup index) :=
  .iteState (op₁ := fun _ => raise .paletteIndexRange index) (op₂ := fun _ => ask fun s => s.palEntry index)
    (fun _ => .raise _ _) fun _ => .ask

theorem pixelOp_consumes (f : PixelFormat) : Consumes (pixelOp f) := by
  cases f with
  | p1 => exact (unpack_consumes _).bind lookup_consumes
  | p2 => exact (unpack_consumes _).bind lookup_consumes
  | p4 => exact (unpack_consumes _).bind lookup_consumes
  | p8 => exact rdu8_consumes.bind fun _ => (countRowBytes_consumes 1).bind fun _ => lookup_consumes _
  | p16 => exact rdu16_consumes.bind fun _ => (countRowBytes_consumes 2).bind fun _ => .ask
  | p24 =>
    exact rdu8_consumes.bind fun _ => rdu8_consumes.bind fun _ => rdu8_consumes.bind fun _ =>
      (countRowBytes_consumes 3).bind fun _ => .pure _
  | p32 =>
    exact rdu8_consumes.bind fun _ => rdu8_consumes.bind fun _ => rdu8_consumes.bind fun _ =>
      rdu8_consumes.bind fun _ => (countRowBytes_consumes 4).bind fun _ => .pure _

/-! ### The header steps -/

theorem readField32_consumes (write : U32 → Metadata → Metadata) (next : BitVec 5) :
    Consumes (readField32 write next) := rdu32_consumes.bind fun _ => .bind .update fun _ => .update

theorem readField16_consumes (write : U16 → Metadata → Metadata) (next : BitVec 5) :
    Consumes (readField16 write next) := rdu16_consumes.bind fun _ => .bind .update fun _ => .update

theorem stepSig_consumes : Consumes stepSig := (rdstr_consumes 2).bind fun _ => .ite (.raise _ _) .update

theorem stepReserved_consumes : Consumes stepReserved := rdu32_consumes.bind fun _ => .update

theorem stepColors_consumes : Consumes stepColors := rdu32_consumes.bind fun _ => .bind .update fun _ => .update

theorem stepImpcolors_consumes : Consumes stepImpcolors := rdu32_consumes.bind fun _ => .bind .update fun _ => .update

theorem readPaletteEntries_consumes (n i : Nat) : Consumes (readPaletteEntries n i) := by
  induction n generalizing i with
  | zero => exact .pure ()
  | succ n ih =>
    have entry : Consumes (readPaletteEntry i) :=
      rdu8_consumes.bind fun _ => rdu8_consumes.bind fun _ => rdu8_consumes.bind fun _ =>
        (skip_consumes 1).bind fun _ => .update
    exact entry.bind fun _ => ih (i + 1)

theorem stepPalette_consumes : Consumes stepPalette :=
  .iteState
    (fun _ => Consumes.bind .update fun _ => (readPaletteEntries_consumes _ 0).bind fun _ => .update)
    fun _ => Consumes.bind .update fun _ => .update

theorem stepMasks_consumes : Consumes stepMasks :=
  .iteState
    (fun _ => rdu32_consumes.bind fun _ => .bind .update fun _ => rdu32_consumes.bind fun _ => .bind .update fun _ =>
      rdu32_consumes.bind fun _ => .bind .update fun _ => .update)
    fun _ => Consumes.bind .update fun _ => .update

/-! ### The decoder control steps -/

theorem stepChkcomp_consumes : Consumes stepChkcomp :=
  .iteState (op₁ := fun _ => goto Phase.dChkdepth) (fun _ => .update) fun _ => .raise _ _

theorem stepChkdepth_consumes : Consumes stepChkdepth :=
  .iteState (op₁ := fun _ => goto Phase.dSeek) (fun _ => .update) fun _ => .raise _ _

theorem stepRowend_consumes : Consumes stepRowend := by
  refine .ofState (op := fun s => skip (padBytes s.rowBytes) >>= _) fun s =>
    (skip_consumes (padBytes s.rowBytes)).bind fun _ => .bind .update fun _ => .update ?_ ?_
  · intro t; split <;> rfl
  · intro t m
    have hrow : (t.withBuf m).row = t.row := rfl
    by_cases h : t.row = 0 <;> simp only [hrow, h, if_true, if_false, and_true] <;> rfl

/-- D_SEEK may move the cursor back, but reads no byte. -/
theorem stepSeek_dependsOnConsumed : DependsOnConsumed stepSeek := by
  intro s m hm
  have h := seek_withBuf s.dataOffset.toNat hm.1
  show (seek s.dataOffset.toNat >>= fun _ => goto Phase.dAlloc) (s.withBuf m) =
    resultWithBuf m ((seek s.dataOffset.toNat >>= fun _ => goto Phase.dAlloc) s)
  rw [op_bind, op_bind, h]
  cases seek s.dataOffset.toNat s <;> rfl

end Sys2Proof.Machine
end

section
/-! Every operation but START depends on the consumed bytes only: the units' operations and the sequencer steps by what
they are made of, the host's commands because they do not read the buffer. -/
namespace Sys2Proof.Machine
open Sys2Proof.Statements

/-- The meaning does the same on any other buffer with the same bytes from the cursor before to the cursor after it. -/
def OutDependsOnConsumed (run : State → Out) : Prop :=
  ∀ s t m, run s = .next t → s.SameBytes m t.pos → run (s.withBuf m) = .next (t.withBuf m)

/-- The meaning does the same on any other buffer of the same length. -/
def IgnoresBytes (run : State → Out) : Prop :=
  ∀ s m, m.len = s.buf.len → run (s.withBuf m) = mapNext (State.withBuf m) (run s)

theorem IgnoresBytes.depends {run : State → Out} (h : IgnoresBytes run) : OutDependsOnConsumed run := by
  intro s t m hrun hm
  rw [h s m hm.1, hrun]
  rfl

theorem runStep_depends {op : Op Unit} (hop : DependsOnConsumed op) (code : State → BitVec 5)
    (hcode : ∀ s m, code (s.withBuf m) = code s := by intro _ _; rfl) :
    OutDependsOnConsumed fun s => .next (runStep (code s) op s) := by
  intro s t m hrun hm
  cases hrun
  have hpos : (runStep (code s) op s).pos = (endState op s).pos := by
    unfold runStep endState
    cases op s <;> rfl
  have h := hop s m (hpos ▸ hm)
  simp only [runStep, hcode, h]
  cases op s <;> rfl

theorem runUnit_depends {op : Op Result} (hop : DependsOnConsumed op) :
    OutDependsOnConsumed fun s => .next (runUnit op s) := by
  intro s t m hrun hm
  cases hrun
  have hpos : (runUnit op s).pos = (endState op s).pos := by
    unfold runUnit endState
    cases op s <;> rfl
  have h := hop s m (hpos ▸ hm)
  simp only [runUnit, h]
  cases op s <;> rfl

/-- An operation of a unit that returns a value made of what `op` returns. -/
theorem returned_depends {α : Type} {op : Op α} (hop : Consumes op) (result : α → Result) :
    OutDependsOnConsumed fun s => .next (runUnit (op >>= fun v => pure (result v)) s) :=
  runUnit_depends (hop.bind fun _ => .pure _).depends

theorem seek_depends (p : Nat) : DependsOnConsumed (seek p) := fun _ _ hm => seek_withBuf p hm.1

/-! ### D_ALLOC and D_PIXEL -/

theorem execDAlloc_ignoresBytes : IgnoresBytes execDAlloc := by
  intro s m _
  have halloc : allocOutput (s.withBuf m) = (allocOutput s).withBuf m := by
    show (if s.height = 0 then _ else _) = State.withBuf m (if s.height = 0 then _ else _)
    split <;> rfl
  show (if outputFits s.pixelCount then _ else _) = _
  unfold execDAlloc
  split
  · rw [halloc]; rfl
  · rfl

theorem storePixel_withBuf (p : Rgba8) (s : State) (m : Memory) :
    storePixel p (s.withBuf m) = mapNext (State.withBuf m) (storePixel p s) := by
  unfold storePixel
  show (match s.out with | none => _ | some st => if s.outIndex < st.size then _ else _) = _
  cases s.out with
  | none => rfl
  | some st =>
    show (if s.outIndex < st.size then _ else _) = mapNext _ (if s.outIndex < st.size then _ else _)
    split <;> rfl

theorem storePixel_pos {p : Rgba8} {s t : State} (h : storePixel p s = .next t) : t.pos = s.pos := by
  unfold storePixel at h
  split at h
  · cases h
  · split at h <;> cases h
    rfl

theorem execDPixel_depends : OutDependsOnConsumed execDPixel := by
  intro s t m hrun hm
  unfold execDPixel at hrun ⊢
  show (match formatOfDepth s.bitsPerPixel with | none => _ | some f => _) = _
  cases hf : formatOfDepth s.bitsPerPixel with
  | none => rw [hf] at hrun; cases hrun
  | some f =>
    have hdep := (pixelOp_consumes f).depends s m
    simp only [hf] at hrun ⊢
    cases hr : pixelOp f s with
    | ok p s' =>
      simp only [hr] at hrun
      rw [endState, hr, ← storePixel_pos hrun] at hdep
      rw [hdep hm]
      simp only [resultWithBuf, storePixel_withBuf, hrun]
      rfl
    | error r s' =>
      simp only [hr] at hrun
      cases hrun
      rw [endState, hr] at hdep
      rw [hdep hm]
      rfl

/-! ### The host's commands -/

theorem execReset_ignoresBytes : IgnoresBytes execReset := by
  intro s m _
  show (if s.status.running = true then _ else _) = mapNext _ (if s.status.running = true then _ else _)
  split <;> rfl

theorem execRdreg_ignoresBytes (n : Nat) : IgnoresBytes (execRdreg n) := by
  intro s m _
  unfold execRdreg
  show (match readRegister n s with | some v => _ | none => _) = _
  cases readRegister n s <;> rfl

theorem execRdpal_ignoresBytes (i : Nat) : IgnoresBytes (execRdpal i) := by
  intro s m _
  unfold execRdpal
  show (match readPalette i s with | some v => _ | none => _) = _
  cases readPalette i s <;> rfl

theorem execRdout_ignoresBytes (i : Nat) : IgnoresBytes (execRdout i) := by
  intro s m _
  unfold execRdout
  show (match readOutput i s with | some v => _ | none => _) = _
  cases readOutput i s <;> rfl

/-! ### Every operation -/

theorem exec_depends {i : Instr} (hi : i ≠ .start) : OutDependsOnConsumed (exec i) := by
  cases i with
  | rdu8 => exact returned_depends rdu8_consumes _
  | rdu16 => exact returned_depends rdu16_consumes _
  | rdu32 => exact returned_depends rdu32_consumes _
  | rdstr n => exact returned_depends (rdstr_consumes n) _
  | seek p => exact runStep_depends (seek_depends p) State.phase
  | tell => exact IgnoresBytes.depends fun _ _ _ => rfl
  | skip n => exact runStep_depends (skip_consumes n).depends State.phase
  | hSig => exact runStep_depends stepSig_consumes.depends _
  | hReserved => exact runStep_depends stepReserved_consumes.depends _
  | hFilesize | hDataoffset | hDibsize | hWidth | hHeight | hCompression | hDatasize | hResh | hResv =>
    exact runStep_depends (readField32_consumes _ _).depends fun _ => _
  | hPlanes | hBpp => exact runStep_depends (readField16_consumes _ _).depends fun _ => _
  | hColors => exact runStep_depends stepColors_consumes.depends _
  | hImpcolors => exact runStep_depends stepImpcolors_consumes.depends _
  | hPalette => exact runStep_depends stepPalette_consumes.depends _
  | hMasks => exact runStep_depends stepMasks_consumes.depends _
  | dChkcomp => exact runStep_depends stepChkcomp_consumes.depends _
  | dChkdepth => exact runStep_depends stepChkdepth_consumes.depends _
  | dSeek => exact runStep_depends stepSeek_dependsOnConsumed _
  | dAlloc => exact execDAlloc_ignoresBytes.depends
  | dRowstart => exact IgnoresBytes.depends fun _ _ _ => rfl
  | dPixel => exact execDPixel_depends
  | dRowend => exact runStep_depends stepRowend_consumes.depends _
  | dFinish => exact IgnoresBytes.depends fun _ _ _ => rfl
  | px1 => exact returned_depends (pixelOp_consumes .p1) _
  | px2 => exact returned_depends (pixelOp_consumes .p2) _
  | px4 => exact returned_depends (pixelOp_consumes .p4) _
  | px8 => exact returned_depends (pixelOp_consumes .p8) _
  | px16 => exact returned_depends (pixelOp_consumes .p16) _
  | px24 => exact returned_depends (pixelOp_consumes .p24) _
  | px32 => exact returned_depends (pixelOp_consumes .p32) _
  | unpack d => exact returned_depends (unpack_consumes d) _
  | lookup index => exact returned_depends (lookup_consumes index) _
  | reset => exact execReset_ignoresBytes.depends
  | start => contradiction
  | rdreg n => exact (execRdreg_ignoresBytes n).depends
  | rdpal index => exact (execRdpal_ignoresBytes index).depends
  | rdout index => exact (execRdout_ignoresBytes index).depends
  | reservedCc7 | reservedHc5 | reservedHc6 | reservedHc7 => exact IgnoresBytes.depends fun _ _ _ => rfl

end Sys2Proof.Machine

namespace Sys2Proof.Statements
open Sys2Proof.Machine

/-- Settles O14, from the same fact of every operation's parts: each read takes the bytes it consumes, and what follows
it starts where it ends. -/
theorem onlyConsumedBytesMatter : Obligations.OnlyConsumedBytesMatter :=
  fun _ s t m hi hexec hlen hbytes => exec_depends hi s t m hexec ⟨hlen, hbytes⟩

end Sys2Proof.Statements
end

section
/-! Multi-byte fields and their bytes (R62, R102): byte `k` of a little-endian field is its bits `8k+7:8k`. -/
namespace Sys2Proof.Machine

theorem le16_toNat (b0 b1 : Byte) : (le16 b0 b1).toNat = b0.toNat + 256 * b1.toNat := by
  rw [le16, BitVec.toNat_ofNat]
  omega

theorem le32_toNat (b0 b1 b2 b3 : Byte) :
    (le32 b0 b1 b2 b3).toNat = b0.toNat + 2 ^ 8 * b1.toNat + 2 ^ 16 * b2.toNat + 2 ^ 24 * b3.toNat := by
  rw [le32, BitVec.toNat_ofNat]
  omega

/-- A field's bits from `8k` on are its number divided by `256^k`. -/
theorem extractLsb'_eq_of_toNat_div {w : Nat} {v : BitVec w} {b : Byte} {k : Nat}
    (h : v.toNat / 2 ^ (8 * k) % 2 ^ 8 = b.toNat) : v.extractLsb' (8 * k) 8 = b := by
  apply BitVec.eq_of_toNat_eq
  rw [BitVec.extractLsb'_toNat, Nat.shiftRight_eq_div_pow, h]

theorem extractLsb'_le16 (b : Nat → Byte) {k : Nat} (hk : k < 2) :
    (le16 (b 0) (b 1)).extractLsb' (8 * k) 8 = b k := by
  apply extractLsb'_eq_of_toNat_div
  rw [le16_toNat]
  interval_cases k <;> omega

theorem extractLsb'_le32 (b : Nat → Byte) {k : Nat} (hk : k < 4) :
    (le32 (b 0) (b 1) (b 2) (b 3)).extractLsb' (8 * k) 8 = b k := by
  apply extractLsb'_eq_of_toNat_div
  rw [le32_toNat]
  interval_cases k <;> omega

end Sys2Proof.Machine

namespace Sys2Proof.Statements
open Sys2Proof.Machine

/-- Settles O13: the field is assembled from the bytes at `a`, `a+1` and so on, and each is its own bits of it. -/
theorem fieldsAndBytesAgree : Obligations.FieldsAndBytesAgree := fun m a =>
  ⟨fun _ hk => extractLsb'_le32 (fun k => m.byteAt (a + k)) hk,
    fun _ hk => extractLsb'_le16 (fun k => m.byteAt (a + k)) hk⟩

end Sys2Proof.Statements
end

section
/-! The memories (R60 to R78): no operation but START writes the buffer, and every operation leaves a canonical state
canonical and the cursor in its buffer. Said once for both, as what each operation keeps of the state it began in. -/
namespace Sys2Proof.Machine
open Sys2Proof.Statements

/-- What the canonical form speaks of; the other registers are none of it. -/
def State.memories (s : State) : Memory × Nat × Memory × List HostInput × Option PixelStore × Option PixelStore :=
  (s.buf, s.pos, s.source, s.inputs, s.pal, s.out)

/-- The buffer is that of `s`, and the memories are canonical if those of `s` are. -/
structure State.MemoriesKept (s t : State) : Prop where
  buf       : t.buf = s.buf
  canonical : s.Canonical → t.Canonical

variable {s₀ s t : State} {α : Type}

theorem State.MemoriesKept.refl (s : State) : s.MemoriesKept s := ⟨rfl, id⟩

theorem State.Canonical.congr (hs : s.Canonical) (h : t.memories = s.memories) : t.Canonical := by
  simp only [State.memories, Prod.mk.injEq] at h
  obtain ⟨hbuf, hpos, hsource, hinputs, hpal, hout⟩ := h
  exact
    { buf := hbuf ▸ hs.buf
      source := hsource ▸ hs.source
      inputs := hinputs ▸ hs.inputs
      pal := hpal ▸ hs.pal
      out := hout ▸ hs.out
      position := by rw [hpos, hbuf]; exact hs.position }

/-- Registers other than the memories are free to change. -/
theorem State.MemoriesKept.congr (hs : s₀.MemoriesKept s) (h : t.memories = s.memories) : s₀.MemoriesKept t where
  buf := (congrArg Prod.fst h).trans hs.buf
  canonical h₀ := (hs.canonical h₀).congr h

theorem State.MemoriesKept.moveTo (hs : s₀.MemoriesKept s) {p : Nat} (hp : p ≤ s.buf.len) :
    s₀.MemoriesKept { s with pos := p } where
  buf := hs.buf
  canonical h₀ := { hs.canonical h₀ with position := hp }

theorem State.MemoriesKept.withPal (hs : s₀.MemoriesKept s) {pal : Option PixelStore}
    (hpal : s.Canonical → ∀ st, pal = some st → st.wf = true) : s₀.MemoriesKept { s with pal := pal } where
  buf := hs.buf
  canonical h₀ := { hs.canonical h₀ with pal := hpal (hs.canonical h₀) }

theorem State.MemoriesKept.withOut (hs : s₀.MemoriesKept s) {out : Option PixelStore}
    (hout : s.Canonical → ∀ st, out = some st → st.wf = true) : s₀.MemoriesKept { s with out := out } where
  buf := hs.buf
  canonical h₀ := { hs.canonical h₀ with out := hout (hs.canonical h₀) }

/-- The operation writes no byte of the buffer and keeps the memories canonical. -/
abbrev KeepsMemories (s₀ : State) (op : Op α) : Prop := Holds s₀.MemoriesKept op

/-- A register write that leaves the memories; for a write of other fields that is seen by `rfl`. -/
theorem update_keepsMemories {f : State → State} (hf : ∀ s, (f s).memories = s.memories := by intro _; rfl) :
    KeepsMemories s₀ (update f) := Keeps.update fun s hs => hs.congr (hf s)

theorem goto_keepsMemories (phase : BitVec 5) : KeepsMemories s₀ (goto phase) := update_keepsMemories

theorem takeFault_memoriesKept (r : Raise) (code : BitVec 5) (hs : s₀.MemoriesKept s) :
    s₀.MemoriesKept (takeFault r code s) := hs.congr rfl

theorem runStep_memoriesKept {op : Op Unit} (code : BitVec 5) (hop : KeepsMemories s op) :
    s.MemoriesKept (runStep code op s) := by
  have h := hop s (.refl s)
  cases hr : op s with
  | ok u t => rw [hr] at h; rw [runStep_ok code hr]; exact h
  | error r t => rw [hr] at h; rw [runStep_error code hr]; exact takeFault_memoriesKept r code h.1

theorem runUnit_memoriesKept {op : Op Result} (hop : KeepsMemories s op) : s.MemoriesKept (runUnit op s) := by
  have h := hop s (.refl s)
  cases hr : op s with
  | ok v t => rw [hr] at h; rw [runUnit_ok hr]; exact State.MemoriesKept.congr h rfl
  | error r t => rw [hr] at h; rw [runUnit_error hr]; exact takeFault_memoriesKept r _ h.1

/-- An operation of a unit that returns a value made of what `op` returns. -/
theorem returned_memoriesKept {op : Op α} (hop : KeepsMemories s op) (result : α → Result) :
    s.MemoriesKept (runUnit (op >>= fun v => pure (result v)) s) :=
  runUnit_memoriesKept (hop.bind fun _ => .pure _)

/-! ### The cursor operations -/

/-- SEEK moves within the buffer or not at all (R134). -/
theorem seek_keepsMemories (p : Nat) : KeepsMemories s₀ (seek p) := by
  intro s hs
  by_cases h : p ≤ s.buf.len
  · rw [seek_ok p s h]; exact hs.moveTo h
  · rw [seek_error p s (Nat.lt_of_not_le h)]; exact ⟨hs, trivial⟩

theorem skip_keepsMemories (n : Nat) : KeepsMemories s₀ (skip n) :=
  fun s hs => seek_keepsMemories (s.pos + n) s hs

/-- A read ends within the buffer or does not move (R68). -/
theorem cursorRead_keepsMemories (n : Nat) (value : State → α) : KeepsMemories s₀ (cursorRead n value) := by
  intro s hs
  by_cases h : s.pos + n ≤ s.buf.len
  · rw [cursorRead_ok n value s h]; exact hs.moveTo h
  · rw [cursorRead_error n value s (Nat.lt_of_not_le h)]; exact ⟨hs, trivial⟩

theorem rdu8_keepsMemories : KeepsMemories s₀ rdu8 := cursorRead_keepsMemories 1 _

theorem rdu16_keepsMemories : KeepsMemories s₀ rdu16 := cursorRead_keepsMemories 2 _

theorem rdu32_keepsMemories : KeepsMemories s₀ rdu32 := cursorRead_keepsMemories 4 _

/-! ### The pixel operations -/

theorem countRowBytes_keepsMemories (n : Nat) : KeepsMemories s₀ (countRowBytes n) := update_keepsMemories

theorem consumeBits_keepsMemories (bpp : Nat) : KeepsMemories s₀ (consumeBits bpp) := by
  intro s hs
  unfold consumeBits
  by_cases h : bpp ≤ s.bitsRemaining.val <;> simp only [h, if_true, if_false] <;> exact hs.congr rfl

theorem unpack_keepsMemories (d : SubDepth) : KeepsMemories s₀ (unpack d) :=
  have fetchByte_keepsMemories : KeepsMemories s₀ fetchByte :=
    rdu8_keepsMemories.bind fun _ => (countRowBytes_keepsMemories 1).bind fun _ => update_keepsMemories
  .iteState (fun _ => fetchByte_keepsMemories.bind fun _ => consumeBits_keepsMemories _)
    fun _ => consumeBits_keepsMemories _

theorem lookup_keepsMemories (index : Nat) : KeepsMemories s₀ (lookup index) :=
  .iteState (op₁ := fun _ => raise .paletteIndexRange index) (op₂ := fun _ => ask fun s => s.palEntry index)
    (fun _ => .raise trivial) fun _ => .ask _

theorem pixelOp_keepsMemories (f : PixelFormat) : KeepsMemories s₀ (pixelOp f) := by
  cases f with
  | p1 => exact (unpack_keepsMemories _).bind lookup_keepsMemories
  | p2 => exact (unpack_keepsMemories _).bind lookup_keepsMemories
  | p4 => exact (unpack_keepsMemories _).bind lookup_keepsMemories
  | p8 =>
    exact rdu8_keepsMemories.bind fun _ => (countRowBytes_keepsMemories 1).bind fun _ => lookup_keepsMemories _
  | p16 => exact rdu16_keepsMemories.bind fun _ => (countRowBytes_keepsMemories 2).bind fun _ => .ask _
  | p24 =>
    exact rdu8_keepsMemories.bind fun _ => rdu8_keepsMemories.bind fun _ => rdu8_keepsMemories.bind fun _ =>
      (countRowBytes_keepsMemories 3).bind fun _ => .pure _
  | p32 =>
    exact rdu8_keepsMemories.bind fun _ => rdu8_keepsMemories.bind fun _ => rdu8_keepsMemories.bind fun _ =>
      rdu8_keepsMemories.bind fun _ => (countRowBytes_keepsMemories 4).bind fun _ => .pure _

/-! ### The header steps -/

theorem readField32_keepsMemories (write : U32 → Metadata → Metadata) (next : BitVec 5) :
    KeepsMemories s₀ (readField32 write next) :=
  rdu32_keepsMemories.bind fun _ => .bind update_keepsMemories fun _ => goto_keepsMemories _

theorem readField16_keepsMemories (write : U16 → Metadata → Metadata) (next : BitVec 5) :
    KeepsMemories s₀ (readField16 write next) :=
  rdu16_keepsMemories.bind fun _ => .bind update_keepsMemories fun _ => goto_keepsMemories _

theorem stepSig_keepsMemories : KeepsMemories s₀ stepSig :=
  (cursorRead_keepsMemories 2 _).bind fun _ => .ite (.raise trivial) (goto_keepsMemories _)

theorem stepReserved_keepsMemories : KeepsMemories s₀ stepReserved :=
  rdu32_keepsMemories.bind fun _ => goto_keepsMemories _

theorem stepColors_keepsMemories : KeepsMemories s₀ stepColors :=
  rdu32_keepsMemories.bind fun _ => .bind update_keepsMemories fun _ => goto_keepsMemories _

theorem stepImpcolors_keepsMemories : KeepsMemories s₀ stepImpcolors :=
  rdu32_keepsMemories.bind fun _ => .bind update_keepsMemories fun _ => goto_keepsMemories _

/-- The store of an entry keeps the palette canonical, if one is present (R67). -/
theorem setPaletteEntry_keepsMemories (i : Nat) (p : Rgba8) :
    KeepsMemories s₀ (update fun s => { s with pal := s.pal.map fun st => st.set i p }) := by
  refine Keeps.update fun s hs => hs.withPal fun hc st hst => ?_
  obtain ⟨st', hst', rfl⟩ := Option.map_eq_some_iff.mp hst
  exact PixelStore.set_wf st' i p (hc.pal st' hst')

theorem readPaletteEntries_keepsMemories (n i : Nat) : KeepsMemories s₀ (readPaletteEntries n i) := by
  induction n generalizing i with
  | zero => exact .pure ()
  | succ n ih =>
    have entry : KeepsMemories s₀ (readPaletteEntry i) :=
      rdu8_keepsMemories.bind fun _ => rdu8_keepsMemories.bind fun _ => rdu8_keepsMemories.bind fun _ =>
        (skip_keepsMemories 1).bind fun _ => setPaletteEntry_keepsMemories i _
    exact entry.bind fun _ => ih (i + 1)

theorem stepPalette_keepsMemories : KeepsMemories s₀ stepPalette := by
  refine .iteState (fun s => Keeps.bind (Keeps.update fun t ht => ?_) fun _ =>
      (readPaletteEntries_keepsMemories _ 0).bind fun _ => goto_keepsMemories _)
    fun _ => Keeps.bind (Keeps.update fun t ht => ?_) fun _ => goto_keepsMemories _
  · exact ht.withPal fun _ st hst => by cases hst; exact PixelStore.alloc_wf _
  · exact ht.withPal fun _ st hst => nomatch hst

theorem stepMasks_keepsMemories : KeepsMemories s₀ stepMasks :=
  have hend : KeepsMemories s₀ endOfParse := update_keepsMemories
  .iteState
    (fun _ => rdu32_keepsMemories.bind fun _ => .bind update_keepsMemories fun _ =>
      rdu32_keepsMemories.bind fun _ => .bind update_keepsMemories fun _ =>
      rdu32_keepsMemories.bind fun _ => .bind update_keepsMemories fun _ => hend)
    fun _ => Keeps.bind update_keepsMemories fun _ => hend

/-! ### The decoder control steps -/

theorem stepChkcomp_keepsMemories : KeepsMemories s₀ stepChkcomp :=
  .iteState (fun _ => goto_keepsMemories _) fun _ => .raise trivial

theorem stepChkdepth_keepsMemories : KeepsMemories s₀ stepChkdepth :=
  .iteState (fun _ => goto_keepsMemories _) fun _ => .raise trivial

theorem stepSeek_keepsMemories : KeepsMemories s₀ stepSeek :=
  fun s => ((seek_keepsMemories s.dataOffset.toNat).bind fun _ => goto_keepsMemories _) s

theorem stepRowend_keepsMemories : KeepsMemories s₀ stepRowend := by
  intro s
  refine ((skip_keepsMemories (padBytes s.rowBytes)).bind fun _ => .bind update_keepsMemories fun _ =>
    update_keepsMemories fun t => ?_) s
  split <;> rfl

theorem allocOutput_memoriesKept (s : State) : s.MemoriesKept (allocOutput s) := by
  have halloc : s.MemoriesKept { s with out := some (PixelStore.alloc s.pixelCount) } :=
    (State.MemoriesKept.refl s).withOut fun _ st hst => by cases hst; exact PixelStore.alloc_wf _
  exact halloc.congr (by simp [State.memories])

/-- D_PIXEL writes within a canonical output (R69). -/
theorem storePixel_memoriesKept (p : Rgba8) (hs : s₀.MemoriesKept s) : NextIn s₀.MemoriesKept (storePixel p s) := by
  unfold storePixel
  split
  · trivial
  · rename_i st hst
    split
    · have hset : s₀.MemoriesKept { s with out := some (st.set s.outIndex p) } :=
        hs.withOut fun hc st' hst' => by cases hst'; exact PixelStore.set_wf st _ p (hc.out st hst)
      exact hset.congr rfl
    · trivial

theorem execDPixel_memoriesKept (s : State) : NextIn s.MemoriesKept (execDPixel s) := by
  unfold execDPixel
  cases formatOfDepth s.bitsPerPixel with
  | none => trivial
  | some f =>
    have h := pixelOp_keepsMemories f s (.refl s)
    cases hr : pixelOp f s with
    | ok p t => rw [hr] at h; simpa only [hr] using storePixel_memoriesKept p h
    | error r t => rw [hr] at h; simpa only [hr, NextIn] using takeFault_memoriesKept r _ h.1

/-! ### Every operation -/

theorem memoriesKept_of_answered {o : Out} (h : ∀ t, o = .next t → ∃ r, t = answered r s) :
    NextIn s.MemoriesKept o :=
  nextIn_of_eq_next fun t ht => by obtain ⟨r, rfl⟩ := h t ht; exact (State.MemoriesKept.refl s).congr rfl

theorem resetRegisters_memoriesKept (s : State) : s.MemoriesKept (resetRegisters s) where
  buf := rfl
  canonical hs :=
    { buf := hs.buf
      source := hs.source
      inputs := hs.inputs
      pal := fun _ h => nomatch h
      out := fun _ h => nomatch h
      position := Nat.zero_le _ }

/-- START hands over the presented source, canonical as it is, and starts at its first byte (R74, R252). -/
theorem startSession_canonical (hs : s.Canonical) : (startSession s).Canonical :=
  { hs with buf := hs.source, position := Nat.zero_le _ }

theorem exec_memoriesKept {i : Instr} (s : State) (hi : i ≠ .start) : NextIn s.MemoriesKept (exec i s) := by
  cases i with
  | rdu8 | rdu16 | rdu32 | rdstr n => exact returned_memoriesKept (cursorRead_keepsMemories _ _) _
  | seek p => exact runStep_memoriesKept _ (seek_keepsMemories p)
  | tell => exact (State.MemoriesKept.refl s).congr rfl
  | skip n => exact runStep_memoriesKept _ (skip_keepsMemories n)
  | hSig => exact runStep_memoriesKept _ stepSig_keepsMemories
  | hReserved => exact runStep_memoriesKept _ stepReserved_keepsMemories
  | hFilesize | hDataoffset | hDibsize | hWidth | hHeight | hCompression | hDatasize | hResh | hResv =>
    exact runStep_memoriesKept _ (readField32_keepsMemories _ _)
  | hPlanes | hBpp => exact runStep_memoriesKept _ (readField16_keepsMemories _ _)
  | hColors => exact runStep_memoriesKept _ stepColors_keepsMemories
  | hImpcolors => exact runStep_memoriesKept _ stepImpcolors_keepsMemories
  | hPalette => exact runStep_memoriesKept _ stepPalette_keepsMemories
  | hMasks => exact runStep_memoriesKept _ stepMasks_keepsMemories
  | dChkcomp => exact runStep_memoriesKept _ stepChkcomp_keepsMemories
  | dChkdepth => exact runStep_memoriesKept _ stepChkdepth_keepsMemories
  | dSeek => exact runStep_memoriesKept _ stepSeek_keepsMemories
  | dAlloc => exact nextIn_of_eq_next fun t h => execDAlloc_eq_next h ▸ allocOutput_memoriesKept s
  | dRowstart => exact (State.MemoriesKept.refl s).congr rfl
  | dPixel => exact execDPixel_memoriesKept s
  | dRowend => exact runStep_memoriesKept _ stepRowend_keepsMemories
  | dFinish => exact (State.MemoriesKept.refl s).congr rfl
  | px1 => exact returned_memoriesKept (pixelOp_keepsMemories .p1) _
  | px2 => exact returned_memoriesKept (pixelOp_keepsMemories .p2) _
  | px4 => exact returned_memoriesKept (pixelOp_keepsMemories .p4) _
  | px8 => exact returned_memoriesKept (pixelOp_keepsMemories .p8) _
  | px16 => exact returned_memoriesKept (pixelOp_keepsMemories .p16) _
  | px24 => exact returned_memoriesKept (pixelOp_keepsMemories .p24) _
  | px32 => exact returned_memoriesKept (pixelOp_keepsMemories .p32) _
  | unpack d => exact returned_memoriesKept (unpack_keepsMemories d) _
  | lookup index => exact returned_memoriesKept (lookup_keepsMemories index) _
  | reset => exact nextIn_of_eq_next fun t h => (execReset_eq_next h).2 ▸ resetRegisters_memoriesKept s
  | start => contradiction
  | rdreg n => exact memoriesKept_of_answered fun t h => execRdreg_eq_next h
  | rdpal index => exact memoriesKept_of_answered fun t h => execRdpal_eq_next h
  | rdout index => exact memoriesKept_of_answered fun t h => execRdout_eq_next h
  | reservedCc7 | reservedHc5 | reservedHc6 | reservedHc7 => trivial

theorem exec_canonical {i : Instr} (hs : s.Canonical) (h : exec i s = .next t) : t.Canonical := by
  by_cases hi : i = .start
  · subst hi
    rw [(execStart_eq_next h).2]
    exact startSession_canonical hs
  · have hkept := exec_memoriesKept s hi
    rw [h] at hkept
    exact hkept.canonical hs

/-! ### A step -/

/-- What a step can do: it runs the operation of the fetched word, or takes up the presented source. -/
theorem step_eq_next (h : step s = .next t) :
    (∃ w s' i, fetch s = .word w s' ∧ decode w = .ok i ∧ exec i s' = .next t) ∨ fetch s = .presented t := by
  unfold step at h
  split at h
  next w s' hf =>
    split at h
    next i hd => exact .inl ⟨w, s', i, hf, hd, h⟩
    next => cases h
  next s' hf => cases h; exact .inr hf
  next => cases h

/-- The state in which a fetched word runs, or that a presented source leaves, is one of `Q`. -/
def FetchedIn (Q : State → Prop) : Fetched → Prop
  | .word _ t => Q t
  | .presented t => Q t
  | .nothing => True

/-- The host's next move is taken off its inputs; a source it presents is canonical as the inputs are (R251). -/
theorem fetchHost_canonical (hs : s.Canonical) : FetchedIn State.Canonical (fetchHost s) := by
  have hinputs := hs.inputs
  unfold fetchHost
  split
  · trivial
  all_goals
    rename_i hin
    rw [hin, List.all_cons, Bool.and_eq_true] at hinputs
    obtain ⟨hmove, hrest⟩ := hinputs
  · exact { hs with source := hmove, inputs := hrest }
  · exact { hs with inputs := hrest }

theorem fetch_canonical (hs : s.Canonical) : FetchedIn State.Canonical (fetch s) := by
  unfold fetch
  split
  · exact hs.congr rfl
  · split
    · exact fetchHost_canonical hs
    · exact hs


end Sys2Proof.Machine

namespace Sys2Proof.Statements
open Sys2Proof.Machine

/-- Settles O49: the state that a step fetches into is canonical, and every operation keeps it so. -/
theorem stepsKeepMemoriesCanonical : Obligations.StepsKeepMemoriesCanonical := by
  intro s t hs hstep
  have hfetch := fetch_canonical hs
  obtain ⟨w, s', i, hf, -, hexec⟩ | hf := step_eq_next hstep
  · rw [hf] at hfetch
    exact exec_canonical hfetch hexec
  · rw [hf] at hfetch
    exact hfetch

/-- Settles O45: START takes the source, every other operation keeps the buffer. -/
theorem bufferIsNeverWritten : Obligations.BufferIsNeverWritten := by
  intro i s t h
  by_cases hi : i = .start
  · subst hi
    rw [if_pos rfl, (execStart_eq_next h).2, startSession_buf]
  · have hkept := exec_memoriesKept s hi
    rw [h] at hkept
    rw [if_neg hi, hkept.buf]

end Sys2Proof.Statements
end

section
/-! Which selectors of the four formats name an operation (R104 to R106, R23), and the reserved codes (R105, R258). -/
namespace Sys2Proof

/-- A depth selects an operation when it has a pixel format (R104). -/
theorem decodeDepth_isOk_iff (depth : U16) : (∃ i, decodeDepth depth = .ok i) ↔ (formatOfDepth depth).isSome := by
  unfold decodeDepth
  cases formatOfDepth depth <;> simp

theorem formatOfDepth_isSome_iff (depth : U16) :
    (formatOfDepth depth).isSome ↔ depth.toNat ∈ [1, 2, 4, 8, 16, 24, 32] := by
  unfold formatOfDepth
  split <;> simp_all

theorem decodePH_isOk_iff (code : BitVec 5) : (∃ i, decodePH code = .ok i) ↔ 1 ≤ code.toNat ∧ code.toNat ≤ 25 := by
  have hall : ∀ c : BitVec 5, (decodePH c).isOk = true ↔ 1 ≤ c.toNat ∧ c.toNat ≤ 25 := by decide
  rw [← hall code]
  cases decodePH code <;> simp [Except.isOk, Except.toBool]

theorem decodeCC_reserved7 {cmd : BitVec 35} (h : opField cmd = 7) : decodeCC cmd = .reservedCc7 := by
  simp [decodeCC, h]

theorem decodeHC_reserved5 {cmd : BitVec 35} (h : opField cmd = 5) : decodeHC cmd = .reservedHc5 := by
  simp [decodeHC, h]

theorem decodeHC_reserved6 {cmd : BitVec 35} (h : opField cmd = 6) : decodeHC cmd = .reservedHc6 := by
  simp [decodeHC, h]

theorem decodeHC_reserved7 {cmd : BitVec 35} (h : opField cmd = 7) : decodeHC cmd = .reservedHc7 := by
  simp [decodeHC, h]

end Sys2Proof

namespace Sys2Proof.Statements

/-- Settles O1: each of the nine words is the encoder's own for its operation, and decodes back by O2. -/
theorem wordsOfTheTableDecode : Obligations.WordsOfTheTableDecode :=
  ⟨encodedInstructionDecodesBack (.rdstr 2) _ rfl rfl, encodedInstructionDecodesBack (.seek 54) _ rfl rfl,
    encodedInstructionDecodesBack .hSig _ rfl rfl, encodedInstructionDecodesBack .hMasks _ rfl rfl,
    encodedInstructionDecodesBack .dPixel _ rfl rfl, encodedInstructionDecodesBack .px24 _ rfl rfl,
    encodedInstructionDecodesBack .start _ rfl rfl, encodedInstructionDecodesBack (.rdreg 23) _ rfl rfl,
    encodedInstructionDecodesBack .reservedHc7 _ rfl rfl⟩

/-- Settles O4: a depth decodes when it has a format; the phase codes are gone through one by one. -/
theorem onlyTheListedSelectorsDecode : Obligations.OnlyTheListedSelectorsDecode :=
  ⟨fun depth => (decodeDepth_isOk_iff depth).trans (formatOfDepth_isSome_iff depth), decodePH_isOk_iff⟩

/-- Settles O40: the operation field alone selects a reserved code, and its meaning is the refusal in every state. -/
theorem reservedCodesAreRefused : Obligations.ReservedCodesAreRefused :=
  ⟨fun _ h => congrArg Except.ok (decodeCC_reserved7 h),
    fun _ h => congrArg Except.ok (decodeHC_reserved5 h),
    fun _ h => congrArg Except.ok (decodeHC_reserved6 h),
    fun _ h => congrArg Except.ok (decodeHC_reserved7 h),
    fun _ => ⟨rfl, rfl, rfl, rfl⟩⟩

end Sys2Proof.Statements
end

section
/-! The layout of rows and of stored pixels (R99, R101, R200). -/
namespace Sys2Proof.Machine

/-- The row length is the ceiling of `columns*bpp/8` (R99). -/
theorem rowLength_ceiling (columns bpp : Nat) :
    columns * bpp ≤ 8 * rowLength columns bpp ∧ 8 * rowLength columns bpp < columns * bpp + 8 := by
  unfold rowLength
  omega

/-- Padding completes a row to a multiple of 4 (R198). -/
theorem add_padBytes_mod (n : Nat) : (n + padBytes n) % 4 = 0 := by
  unfold padBytes
  omega

/-- Byte `k` of entry `i` is its component `k` (R101). -/
theorem PixelStore.byteAt_of_get {st : PixelStore} {i k : Nat} {p : Rgba8} (h : st.get i = some p) (hk : k < 4) :
    st.byteAt (4 * i + k) = some (componentByte p k) := by
  have hentry : (4 * i + k) / 4 = i := by omega
  have hcomponent : (4 * i + k) % 4 = k := by omega
  rw [PixelStore.byteAt, hentry, hcomponent, h, Option.map_some]

end Sys2Proof.Machine

namespace Sys2Proof.Statements
open Sys2Proof.Machine

/-- Settles O59: the stride is the row length with padding of less than 4 bytes, which completes it to a multiple of
4. -/
theorem strideIsTheLeastMultipleOfFour : Obligations.StrideIsTheLeastMultipleOfFour := by
  intro width bpp
  obtain ⟨hle, hlt⟩ := rowLength_ceiling width bpp
  exact ⟨hlt, hle, add_padBytes_mod _, Nat.le_add_right _ _, Nat.add_lt_add_left (padBytes_lt _) _⟩

/-- Settles O60: the four components of one entry. -/
theorem pixelsAreFourBytesEach : Obligations.PixelsAreFourBytesEach := fun _ _ _ h =>
  ⟨PixelStore.byteAt_of_get (k := 0) h (by decide), PixelStore.byteAt_of_get (k := 1) h (by decide),
    PixelStore.byteAt_of_get (k := 2) h (by decide), PixelStore.byteAt_of_get (k := 3) h (by decide)⟩

end Sys2Proof.Statements
end

section
/-! The seven cursor operations (R130 to R140): what their words select, and how each can end. A read ends `n` bytes on,
SEEK and SKIP at their target, and any of them in `OutOfBounds` with all else as it was. -/
namespace Sys2Proof

/-! ### Words of format CC (R105) -/

theorem argField_eq_mod (cmd : BitVec 35) : argField cmd = cmd.toNat % 2 ^ 32 := by
  rw [argField, BitVec.extractLsb'_toNat, Nat.shiftRight_zero]

theorem decodeCC_rdu8 {cmd : BitVec 35} (h : opField cmd = 0) : decodeCC cmd = .rdu8 := by
  simp [decodeCC, h]

theorem decodeCC_rdu16 {cmd : BitVec 35} (h : opField cmd = 1) : decodeCC cmd = .rdu16 := by
  simp [decodeCC, h]

theorem decodeCC_rdu32 {cmd : BitVec 35} (h : opField cmd = 2) : decodeCC cmd = .rdu32 := by
  simp [decodeCC, h]

theorem decodeCC_rdstr {cmd : BitVec 35} (h : opField cmd = 3) : decodeCC cmd = .rdstr (cmd.toNat % 2 ^ 32) := by
  simp [decodeCC, h, argField_eq_mod]

theorem decodeCC_seek {cmd : BitVec 35} (h : opField cmd = 4) : decodeCC cmd = .seek (cmd.toNat % 2 ^ 32) := by
  simp [decodeCC, h, argField_eq_mod]

theorem decodeCC_tell {cmd : BitVec 35} (h : opField cmd = 5) : decodeCC cmd = .tell := by
  simp [decodeCC, h]

theorem decodeCC_skip {cmd : BitVec 35} (h : opField cmd = 6) : decodeCC cmd = .skip (cmd.toNat % 2 ^ 32) := by
  simp [decodeCC, h, argField_eq_mod]

end Sys2Proof

namespace Sys2Proof.Machine
open Sys2Proof.Statements

variable {α : Type}

/-! ### Reads, seeks and skips run by themselves -/

/-- A read that the buffer covers gives its value back and moves the cursor (R68). -/
theorem runUnit_cursorRead_ok {n : Nat} {s : State} (value : State → α) (result : α → Result)
    (h : s.pos + n ≤ s.buf.len) :
    runUnit (cursorRead n value >>= fun v => pure (result v)) s =
      { s with pos := s.pos + n, opResult := some (result (value s)) } := by
  have hop := op_bind_ok (f := fun v => pure (result v)) (cursorRead_ok n value s h)
  exact runUnit_ok hop

/-- A read that the buffer does not cover carries the position it needed (R139, R140). -/
theorem runUnit_cursorRead_error {n : Nat} {s : State} (value : State → α) (result : α → Result)
    (h : s.buf.len < s.pos + n) :
    runUnit (cursorRead n value >>= fun v => pure (result v)) s = failedWith .outOfBounds (s.pos + n) s.phase s :=
  runUnit_error (op_bind_error (cursorRead_error n value s h))

theorem runUnitVoid_seek_ok {p : Nat} {s : State} (h : p ≤ s.buf.len) :
    runUnitVoid (seek p) s = { s with pos := p } := runStep_ok _ (seek_ok p s h)

theorem runUnitVoid_seek_error {p : Nat} {s : State} (h : s.buf.len < p) :
    runUnitVoid (seek p) s = failedWith .outOfBounds p s.phase s := runStep_error _ (seek_error p s h)

/-! ### The values read (R62, R133) -/

theorem u16At_toNat (s : State) (a : Nat) : (s.buf.u16At a).toNat = num16 s a := le16_toNat _ _

theorem u32At_toNat (s : State) (a : Nat) : (s.buf.u32At a).toNat = num32 s a := le32_toNat _ _ _ _

theorem latin1_toNat (b : Byte) : (latin1 b).toNat = b.toNat := by
  have hvalid : b.toNat.isValidChar := .inl (Nat.lt_trans b.isLt (by decide))
  rw [latin1, Char.toNat_ofNat, if_pos hvalid]

/-! ### How a cursor operation can end -/

/-- A cursor operation from `s` to `target` moves there, leaving `result` in the result port, or the buffer ends before
`target` and it raises `OutOfBounds` (R138 to R140). TELL, whose target is the cursor itself, never fails, so a target
reached is known to lie in the buffer only where the cursor did. -/
inductive CursorEnd (s : State) (target : Nat) : State → Prop
  | moved (result : Option Result) (h : s.pos ≤ s.buf.len → target ≤ s.buf.len) :
    CursorEnd s target { s with pos := target, opResult := result }
  | failed (h : s.buf.len < target) : CursorEnd s target (failedWith .outOfBounds target s.phase s)

theorem runUnit_cursorRead_cursorEnd (n : Nat) (value : State → α) (result : α → Result) (s : State) :
    CursorEnd s (s.pos + n) (runUnit (cursorRead n value >>= fun v => pure (result v)) s) := by
  by_cases h : s.pos + n ≤ s.buf.len
  · rw [runUnit_cursorRead_ok value result h]; exact .moved _ fun _ => h
  · have hlt := Nat.lt_of_not_le h
    rw [runUnit_cursorRead_error value result hlt]; exact .failed hlt

theorem runUnitVoid_seek_cursorEnd (p : Nat) (s : State) : CursorEnd s p (runUnitVoid (seek p) s) := by
  by_cases h : p ≤ s.buf.len
  · rw [runUnitVoid_seek_ok h]; exact .moved s.opResult fun _ => h
  · have hlt := Nat.lt_of_not_le h
    rw [runUnitVoid_seek_error hlt]; exact .failed hlt

theorem exec_cursorEnd {i : Instr} (hi : isCursor i = true) (s : State) :
    NextIn (CursorEnd s (cursorTarget i s)) (exec i s) := by
  cases i with
  | rdu8 | rdu16 | rdu32 | rdstr n => exact runUnit_cursorRead_cursorEnd _ _ _ s
  | seek p => exact runUnitVoid_seek_cursorEnd p s
  | tell => exact CursorEnd.moved (some (.number s.pos)) id
  | skip n => exact runUnitVoid_seek_cursorEnd (s.pos + n) s
  | _ => cases hi

theorem exec_eq_next_cursorEnd {i : Instr} {s t : State} (hi : isCursor i = true) (h : exec i s = .next t) :
    CursorEnd s (cursorTarget i s) t := by
  have hend := exec_cursorEnd hi s
  rwa [h] at hend

/-- An operation that ends in a fault it did not begin in has failed itself. -/
theorem CursorEnd.of_failed {s t : State} {target : Nat} (h : CursorEnd s target t) (hs : s.status ≠ .failed)
    (ht : t.status = .failed) : s.buf.len < target ∧ t = failedWith .outOfBounds target s.phase s := by
  cases h with
  | moved => exact absurd ht hs
  | failed hlt => exact ⟨hlt, rfl⟩

theorem CursorEnd.inBuffer {s t : State} {target : Nat} (h : CursorEnd s target t) (hs : s.pos ≤ s.buf.len) :
    t.buf = s.buf ∧ t.pos ≤ t.buf.len := by
  cases h with
  | moved _ hle => exact ⟨rfl, hle hs⟩
  | failed => exact ⟨rfl, hs⟩

end Sys2Proof.Machine

namespace Sys2Proof.Statements
open Sys2Proof.Machine

/-- Settles O9: RDSTR is a read of `n` bytes, each made the character with its code. -/
theorem rdstrReadsLatin1Text : Obligations.RdstrReadsLatin1Text := by
  refine ⟨fun _ h => congrArg Except.ok (decodeCC_rdstr h), fun s n => ⟨fun h => ?_, fun h => ?_⟩⟩
  · refine ⟨(List.range n).map fun k => latin1 (s.buf.byteAt (s.pos + k)),
      congrArg Host.Outcome.next (runUnit_cursorRead_ok _ _ h), by simp, fun k hk => ?_⟩
    simp [hk, latin1_toNat, byteNat]
  · exact congrArg Host.Outcome.next (runUnit_cursorRead_error _ _ h)

/-- Settles O11: of the ways a cursor operation can end, only its own fault sets the status to `FAILED`. -/
theorem failedCursorOperationChangesNothing : Obligations.FailedCursorOperationChangesNothing :=
  fun _ _ _ hi hs h ht => (exec_eq_next_cursorEnd hi h).of_failed hs ht

/-- Settles O12: the cursor is at 0 after reset; an operation that ends well has reached a target in the buffer, and one
that fails has not moved. -/
theorem cursorStaysInTheBuffer : Obligations.CursorStaysInTheBuffer :=
  ⟨Nat.zero_le _, fun _ _ _ hi hs h => (exec_eq_next_cursorEnd hi h).inBuffer hs⟩

/-- Settles O8: the three reads are of 1, 2 and 4 bytes, and the fields they assemble are little-endian numbers. -/
theorem cursorReadsAreLittleEndian : Obligations.CursorReadsAreLittleEndian := by
  refine ⟨fun _ h => congrArg Except.ok (decodeCC_rdu8 h), fun _ h => congrArg Except.ok (decodeCC_rdu16 h),
    fun _ h => congrArg Except.ok (decodeCC_rdu32 h), fun s => ⟨fun h => ?_, fun h => ?_, fun h => ?_, fun h => ?_,
      fun h => ?_, fun h => ?_⟩⟩
  · exact congrArg Host.Outcome.next (runUnit_cursorRead_ok _ _ h)
  · exact congrArg Host.Outcome.next (runUnit_cursorRead_error _ _ h)
  · rw [← u16At_toNat]; exact congrArg Host.Outcome.next (runUnit_cursorRead_ok _ _ h)
  · exact congrArg Host.Outcome.next (runUnit_cursorRead_error _ _ h)
  · rw [← u32At_toNat]; exact congrArg Host.Outcome.next (runUnit_cursorRead_ok _ _ h)
  · exact congrArg Host.Outcome.next (runUnit_cursorRead_error _ _ h)

/-- Settles O10: SEEK goes to its target or fails, SKIP is SEEK from the cursor, TELL reads the cursor. -/
theorem seekTellSkipPositionTheCursor : Obligations.SeekTellSkipPositionTheCursor :=
  ⟨fun _ h => congrArg Except.ok (decodeCC_seek h), fun _ h => congrArg Except.ok (decodeCC_tell h),
    fun _ h => congrArg Except.ok (decodeCC_skip h), fun _ _ =>
      ⟨fun h => congrArg Host.Outcome.next (runUnitVoid_seek_ok h),
        fun h => congrArg Host.Outcome.next (runUnitVoid_seek_error h),
        rfl,
        fun h => congrArg Host.Outcome.next (runUnitVoid_seek_ok h),
        fun h => congrArg Host.Outcome.next (runUnitVoid_seek_error h)⟩⟩

end Sys2Proof.Statements
end

section
/-! What each header step does (R152 to R169), in closed form: a read that the buffer covers is followed by the step's
writes, a read that it does not cover ends the session with all else as it was. -/
namespace Sys2Proof.Machine
open Sys2Proof.Statements

variable {α : Type} {code : BitVec 5} {s : State}

/-! ### A step that begins with a read -/

theorem runStep_cursorRead_ok {n : Nat} {value : State → α} {f : α → Op Unit} (h : s.pos + n ≤ s.buf.len) :
    runStep code (cursorRead n value >>= f) s = runStep code (f (value s)) { s with pos := s.pos + n } := by
  rw [runStep, op_bind_ok (cursorRead_ok n value s h), runStep]

theorem runStep_cursorRead_error {n : Nat} {value : State → α} {f : α → Op Unit} (h : s.buf.len < s.pos + n) :
    runStep code (cursorRead n value >>= f) s = failedWith .outOfBounds (s.pos + n) code s :=
  runStep_error code (op_bind_error (cursorRead_error n value s h))

/-! ### H_SIG (R152) -/

/-- The text that H_SIG reads. -/
def signatureText (s : State) : List Char := (List.range 2).map fun k => latin1 (s.buf.byteAt (s.pos + k))

theorem signatureText_eq (s : State) :
    signatureText s = [latin1 (s.buf.byteAt s.pos), latin1 (s.buf.byteAt (s.pos + 1))] := rfl

theorem signatureText_eq_BM (s : State) :
    signatureText s = ['B', 'M'] ↔ s.buf.byteAt s.pos = 0x42 ∧ s.buf.byteAt (s.pos + 1) = 0x4D := by
  have hB : 'B' = latin1 0x42 := by decide
  have hM : 'M' = latin1 0x4D := by decide
  rw [signatureText_eq, hB, hM]
  constructor
  · intro h
    simp only [List.cons.injEq, and_true] at h
    exact ⟨latin1_injective _ _ h.1, latin1_injective _ _ h.2⟩
  · rintro ⟨h0, h1⟩
    rw [h0, h1]

theorem signatureCode_signatureText (s : State) : signatureCode (signatureText s) = num16 s s.pos := by
  simp [signatureText_eq, signatureCode, latin1_toNat, num16, byteNat]

/-- The part of H_SIG after its read. -/
def checkSignature (text : List Char) : Op Unit :=
  if text ≠ ['B', 'M'] then raise .formatError (signatureCode text) else goto Phase.hFilesize

theorem execHSig_ok (h : s.pos + 2 ≤ s.buf.len) :
    execHSig s = .next (runStep Phase.hSig (checkSignature (signatureText s)) { s with pos := s.pos + 2 }) :=
  congrArg Host.Outcome.next (runStep_cursorRead_ok (f := checkSignature) h)

theorem checkSignature_ok (h : s.buf.byteAt s.pos = 0x42 ∧ s.buf.byteAt (s.pos + 1) = 0x4D) :
    checkSignature (signatureText s) = goto Phase.hFilesize :=
  if_neg (not_not.mpr ((signatureText_eq_BM s).mpr h))

theorem checkSignature_error (h : ¬ (s.buf.byteAt s.pos = 0x42 ∧ s.buf.byteAt (s.pos + 1) = 0x4D)) :
    checkSignature (signatureText s) = raise .formatError (num16 s s.pos) :=
  (if_pos (mt (signatureText_eq_BM s).mp h)).trans (by rw [signatureCode_signatureText])

/-! ### The plain steps (R165) -/

theorem exec_plain32 : ∀ p ∈ plain32, decode (.ph p.code) = .ok p.instr ∧
    ∀ s, exec p.instr s = .next (runStep p.code (readField32 (fun v md => p.write md v) p.next) s) := by
  simp only [plain32, List.forall_mem_cons]
  exact ⟨⟨rfl, fun _ => rfl⟩, ⟨rfl, fun _ => rfl⟩, ⟨rfl, fun _ => rfl⟩, ⟨rfl, fun _ => rfl⟩, ⟨rfl, fun _ => rfl⟩,
    ⟨rfl, fun _ => rfl⟩, ⟨rfl, fun _ => rfl⟩, ⟨rfl, fun _ => rfl⟩, ⟨rfl, fun _ => rfl⟩, nofun⟩

theorem exec_plain16 : ∀ p ∈ plain16, decode (.ph p.code) = .ok p.instr ∧
    ∀ s, exec p.instr s = .next (runStep p.code (readField16 (fun v md => p.write md v) p.next) s) := by
  simp only [plain16, List.forall_mem_cons]
  exact ⟨⟨rfl, fun _ => rfl⟩, ⟨rfl, fun _ => rfl⟩, nofun⟩

/-! ### The zero-fallbacks (R166, R167) -/

theorem colorsFallback_toNat (stored : U32) (bpp : U16) :
    (colorsFallback stored bpp).toNat =
      if stored.toNat ≠ 0 then stored.toNat else if bpp.toNat < 32 then 2 ^ bpp.toNat else 0 := by
  unfold colorsFallback
  by_cases hzero : stored = 0
  · subst hzero
    by_cases hbpp : bpp.toNat < 32
    · have hpow : 2 ^ bpp.toNat < 2 ^ 32 := Nat.pow_lt_pow_right (by decide) hbpp
      simpa [hbpp] using hpow
    · simp [hbpp]
  · have hnum : stored.toNat ≠ 0 := fun h => hzero (BitVec.eq_of_toNat_eq h)
    rw [if_pos hzero, if_pos hnum]

theorem importantFallback_toNat (stored colors : U32) :
    (importantFallback stored colors).toNat = if stored.toNat ≠ 0 then stored.toNat else colors.toNat := by
  unfold importantFallback
  by_cases hzero : stored = 0
  · simp [hzero]
  · have hnum : stored.toNat ≠ 0 := fun h => hzero (BitVec.eq_of_toNat_eq h)
    rw [if_pos hzero, if_pos hnum]

theorem bitsPerPixel_of_some {bpp : U16} (h : s.md.bitsPerPixel = some bpp) : s.bitsPerPixel = bpp := by
  rw [State.bitsPerPixel, h, Option.getD_some]

theorem colorsCount_of_some {colors : U32} (h : s.md.colorsCount = some colors) : s.colorsCount = colors := by
  rw [State.colorsCount, h, Option.getD_some]

/-! ### H_MASKS (R169, R171) -/

/-- H_MASKS at depth 16: three masks, then the end of the parse. -/
def readMasks : Op Unit := do
  let r ← rdu32
  update fun s => { s with md := { s.md with maskR := some r } }
  let g ← rdu32
  update fun s => { s with md := { s.md with maskG := some g } }
  let b ← rdu32
  update fun s => { s with md := { s.md with maskB := some b } }
  endOfParse

/-- H_MASKS at any other depth. -/
def skipMasks : Op Unit := do
  update fun s => { s with md := { s.md with maskR := none, maskG := none, maskB := none } }
  endOfParse

theorem stepMasks_of_hasMasks (h : hasMasks s.bitsPerPixel = true) : stepMasks s = readMasks s := if_pos h

theorem stepMasks_of_not_hasMasks (h : hasMasks s.bitsPerPixel = false) : stepMasks s = skipMasks s :=
  if_neg (by simp [h])

theorem hasMasks_iff (bpp : U16) : hasMasks bpp = true ↔ bpp.toNat = 16 := decide_eq_true_iff

theorem runStep_congr {op op' : Op Unit} (h : op s = op' s) : runStep code op s = runStep code op' s := by
  rw [runStep, h, runStep]

end Sys2Proof.Machine

namespace Sys2Proof.Statements
open Sys2Proof.Machine

/-- Settles O15: one read of two bytes, then the comparison of the text, which is one-to-one in the bytes. -/
theorem signatureIsChecked : Obligations.SignatureIsChecked := by
  refine ⟨rfl, fun s => ⟨fun h => congrArg Host.Outcome.next (runStep_cursorRead_error h), fun h h0 h1 => ?_,
    fun h hne => ?_⟩⟩
  · exact (execHSig_ok h).trans (by rw [checkSignature_ok ⟨h0, h1⟩]; rfl)
  · exact (execHSig_ok h).trans (by rw [checkSignature_error hne]; rfl)

/-- Settles O16: every step of the table is the template of R165. -/
theorem plainHeaderStepsStoreTheirField : Obligations.PlainHeaderStepsStoreTheirField := by
  constructor
  · intro p hp
    obtain ⟨hdecode, hexec⟩ := exec_plain32 p hp
    refine ⟨hdecode, fun s => ⟨fun h => ⟨s.buf.u32At s.pos, u32At_toNat s _, ?_⟩, fun h => ?_⟩⟩ <;> rw [hexec]
    · exact congrArg Host.Outcome.next (runStep_cursorRead_ok h)
    · exact congrArg Host.Outcome.next (runStep_cursorRead_error h)
  · intro p hp
    obtain ⟨hdecode, hexec⟩ := exec_plain16 p hp
    refine ⟨hdecode, fun s => ⟨fun h => ⟨s.buf.u16At s.pos, u16At_toNat s _, ?_⟩, fun h => ?_⟩⟩ <;> rw [hexec]
    · exact congrArg Host.Outcome.next (runStep_cursorRead_ok h)
    · exact congrArg Host.Outcome.next (runStep_cursorRead_error h)

/-- Settles O17: one read of four bytes, whose value the step does not use. -/
theorem reservedFieldIsDropped : Obligations.ReservedFieldIsDropped :=
  ⟨rfl, fun _ => ⟨fun h => congrArg Host.Outcome.next (runStep_cursorRead_ok h),
    fun h => congrArg Host.Outcome.next (runStep_cursorRead_error h)⟩⟩

/-- Settles O18: one read of four bytes, and the fallback as a number. -/
theorem colorCountFallsBack : Obligations.ColorCountFallsBack := by
  refine ⟨rfl, fun s bpp hbpp => ⟨fun h => ⟨colorsFallback (s.buf.u32At s.pos) s.bitsPerPixel, ?_, ?_⟩, fun h => ?_⟩⟩
  · rw [colorsFallback_toNat, u32At_toNat, bitsPerPixel_of_some hbpp]
  · exact congrArg Host.Outcome.next (runStep_cursorRead_ok h)
  · exact congrArg Host.Outcome.next (runStep_cursorRead_error h)

/-- Settles O19: one read of four bytes, and the fallback as a number. -/
theorem importantColorCountFallsBack : Obligations.ImportantColorCountFallsBack := by
  refine ⟨rfl, fun s colors hcolors =>
    ⟨fun h => ⟨importantFallback (s.buf.u32At s.pos) s.colorsCount, ?_, ?_⟩, fun h => ?_⟩⟩
  · rw [importantFallback_toNat, u32At_toNat, colorsCount_of_some hcolors]
  · exact congrArg Host.Outcome.next (runStep_cursorRead_ok h)
  · exact congrArg Host.Outcome.next (runStep_cursorRead_error h)

/-- Settles O21: at depth 16 three reads, of which the first that the buffer does not cover ends the session. -/
theorem maskStepEndsTheParse : Obligations.MaskStepEndsTheParse := by
  refine ⟨rfl, fun s bpp hbpp => ?_⟩
  have hreg := bitsPerPixel_of_some hbpp
  have hmasks (h : bpp.toNat = 16) : exec .hMasks s = .next (runStep 17 readMasks s) :=
    congrArg Host.Outcome.next (runStep_congr (stepMasks_of_hasMasks (by rw [hreg, hasMasks_iff, h])))
  refine ⟨fun h => ?_, fun h hlen => ?_, fun h hlen => ?_, fun h h4 hlen => ?_, fun h h8 hlen => ?_⟩
  · have hnot : hasMasks s.bitsPerPixel = false := by rw [hreg, Bool.eq_false_iff, ne_eq, hasMasks_iff]; exact h
    exact congrArg Host.Outcome.next (runStep_congr (stepMasks_of_not_hasMasks hnot))
  · refine ⟨s.buf.u32At s.pos, s.buf.u32At (s.pos + 4), s.buf.u32At (s.pos + 8), u32At_toNat s _, u32At_toNat s _,
      u32At_toNat s _, (hmasks h).trans (congrArg Host.Outcome.next ?_)⟩
    exact (runStep_cursorRead_ok (by omega)).trans
      ((runStep_cursorRead_ok (s := { s with pos := s.pos + 4, md := _ }) (by dsimp only; omega)).trans
      (runStep_cursorRead_ok (s := { s with pos := s.pos + 8, md := _ }) (by dsimp only; omega)))
  · exact (hmasks h).trans (congrArg Host.Outcome.next (runStep_cursorRead_error hlen))
  · refine ⟨s.buf.u32At s.pos, u32At_toNat s _, (hmasks h).trans (congrArg Host.Outcome.next ?_)⟩
    exact (runStep_cursorRead_ok h4).trans
      (runStep_cursorRead_error (s := { s with pos := s.pos + 4, md := _ }) (by dsimp only; omega))
  · refine ⟨s.buf.u32At s.pos, s.buf.u32At (s.pos + 4), u32At_toNat s _, u32At_toNat s _,
      (hmasks h).trans (congrArg Host.Outcome.next ?_)⟩
    exact (runStep_cursorRead_ok (by omega)).trans
      ((runStep_cursorRead_ok (s := { s with pos := s.pos + 4, md := _ }) (by dsimp only; omega)).trans
      (runStep_cursorRead_error (s := { s with pos := s.pos + 8, md := _ }) (by dsimp only; omega)))

end Sys2Proof.Statements
end

section
/-! The palette (R168): what its loop stores, said once as a fill of the store, and where it ends if the buffer does. -/
namespace Sys2Proof.Machine
open Sys2Proof.Statements

/-! ### Filling a store -/

/-- The palette colour whose four bytes begin at address `a` (R92). -/
def Memory.entryAt (m : Memory) (a : Nat) : Rgba8 :=
  { red := m.byteAt (a + 2), green := m.byteAt (a + 1), blue := m.byteAt a, alpha := 255 }

/-- The store with the entries from `i` on, `n` of them, taken from a palette at address `base`. -/
def PixelStore.fill (m : Memory) (base : Nat) : Nat → Nat → PixelStore → PixelStore
  | 0, _, st => st
  | n + 1, i, st => PixelStore.fill m base n (i + 1) (st.set i (m.entryAt (base + 4 * i)))

@[simp] theorem PixelStore.fill_size (m : Memory) (base n i : Nat) (st : PixelStore) :
    (st.fill m base n i).size = st.size := by
  induction n generalizing i st with
  | zero => rfl
  | succ n ih => rw [PixelStore.fill, ih, PixelStore.set_size]

theorem PixelStore.fill_get {m : Memory} {base n i : Nat} {st : PixelStore} (h : i + n ≤ st.size) (j : Nat) :
    (st.fill m base n i).get j =
      if i ≤ j ∧ j < i + n then some (m.entryAt (base + 4 * j)) else st.get j := by
  induction n generalizing i st with
  | zero => rw [if_neg (by omega)]; rfl
  | succ n ih =>
    rw [PixelStore.fill, ih (by rw [PixelStore.set_size]; omega)]
    by_cases hj : j = i
    · subst hj
      rw [if_neg (by omega), if_pos (by omega), PixelStore.get_set_same _ _ _ (by omega)]
    · rw [PixelStore.get_set_other _ _ _ _ hj]
      exact if_congr (by omega) rfl rfl

/-- An allocated store, filled from its first entry on. -/
theorem PixelStore.fill_alloc_get {m : Memory} {base n k : Nat} (h : k ≤ n) (j : Nat) :
    ((PixelStore.alloc n).fill m base k 0).get j = if j < k then some (m.entryAt (base + 4 * j)) else none := by
  rw [PixelStore.fill_get (by rw [PixelStore.alloc_size]; omega), PixelStore.alloc_get]
  exact if_congr (by omega) rfl rfl

/-! ### The loop -/

variable {code : BitVec 5} {s : State}

theorem readPaletteEntry_ok (i : Nat) (h : s.pos + 4 ≤ s.buf.len) :
    readPaletteEntry i s =
      .ok () { s with pos := s.pos + 4, pal := s.pal.map fun st => st.set i (s.buf.entryAt s.pos) } := by
  rw [readPaletteEntry, op_bind_ok (rdu8_ok s (by omega)),
    op_bind_ok (rdu8_ok _ (by dsimp only; omega)), op_bind_ok (rdu8_ok _ (by dsimp only; omega)),
    op_bind_ok ((skip_eq_seek 1 _).trans (seek_ok _ _ (by dsimp only; omega)))]
  rfl

/-- The operation consumes the bytes up to the end of the buffer and fails on the next one (R139, R140). -/
def FailsAtEnd {α : Type} (op : Op α) (s : State) : Prop :=
  op s = .error ⟨.outOfBounds, s.buf.len + 1⟩ { s with pos := s.buf.len }

theorem FailsAtEnd.rdu8_bind {α : Type} {f : Byte → Op α} (hpos : s.pos ≤ s.buf.len)
    (hf : s.pos + 1 ≤ s.buf.len → FailsAtEnd (f (s.buf.byteAt s.pos)) { s with pos := s.pos + 1 }) :
    FailsAtEnd (rdu8 >>= f) s := by
  by_cases h : s.pos + 1 ≤ s.buf.len
  · exact (op_bind_ok (rdu8_ok s h)).trans (hf h)
  · have hend : s.pos = s.buf.len := by omega
    rw [FailsAtEnd, op_bind_error (rdu8_error s (by omega)), ← hend]

theorem FailsAtEnd.skip_bind {α : Type} {f : Unit → Op α} (hpos : s.pos = s.buf.len) :
    FailsAtEnd (skip 1 >>= f) s := by
  have hseek : seek (s.pos + 1) s = .error ⟨.outOfBounds, s.pos + 1⟩ s := seek_error _ s (by omega)
  rw [FailsAtEnd, op_bind_error ((skip_eq_seek 1 s).trans hseek), ← hpos]

/-- Whether the first byte missing is a colour's or the pad, the entry is not stored. -/
theorem readPaletteEntry_error (i : Nat) (hpos : s.pos ≤ s.buf.len) (h : s.buf.len < s.pos + 4) :
    FailsAtEnd (readPaletteEntry i) s :=
  .rdu8_bind hpos fun h1 => .rdu8_bind h1 fun h2 => .rdu8_bind h2 fun h3 =>
    .skip_bind (by dsimp only at h3 ⊢; omega)

theorem readPaletteEntries_ok {base n i : Nat} (hbase : s.pos = base + 4 * i) (h : s.pos + 4 * n ≤ s.buf.len) :
    readPaletteEntries n i s =
      .ok () { s with pos := s.pos + 4 * n, pal := s.pal.map fun st => st.fill s.buf base n i } := by
  induction n generalizing i s with
  | zero => simp [readPaletteEntries, PixelStore.fill]
  | succ n ih =>
    rw [readPaletteEntries, op_bind_ok (readPaletteEntry_ok i (by omega)),
      ih (by dsimp only; omega) (by dsimp only; omega)]
    simp only [Option.map_map, Function.comp_def, hbase]
    congr 2
    omega

theorem readPaletteEntries_error {base n i : Nat} (hbase : s.pos = base + 4 * i) (hpos : s.pos ≤ s.buf.len)
    (h : s.buf.len < s.pos + 4 * n) :
    readPaletteEntries n i s = .error ⟨.outOfBounds, s.buf.len + 1⟩
      { s with pos := s.buf.len, pal := s.pal.map fun st => st.fill s.buf base ((s.buf.len - s.pos) / 4) i } := by
  induction n generalizing i s with
  | zero => omega
  | succ n ih =>
    by_cases hentry : s.pos + 4 ≤ s.buf.len
    · rw [readPaletteEntries, op_bind_ok (readPaletteEntry_ok i hentry),
        ih (by dsimp only; omega) hentry (by dsimp only; omega)]
      have hcount : (s.buf.len - s.pos) / 4 = (s.buf.len - (s.pos + 4)) / 4 + 1 := by omega
      simp only [Option.map_map, Function.comp_def, hbase] at hcount ⊢
      rw [hcount]
      rfl
    · have hcount : (s.buf.len - s.pos) / 4 = 0 := by omega
      rw [readPaletteEntries, op_bind_error (readPaletteEntry_error i hpos (by omega)), hcount]
      simp [PixelStore.fill]

/-! ### H_PALETTE -/

/-- H_PALETTE up to 8 bpp: a new store, one entry for each colour. -/
def loadPalette : Op Unit := fun s =>
  (do
    update fun s => { s with pal := some (PixelStore.alloc s.colorsCount.toNat) }
    readPaletteEntries s.colorsCount.toNat 0
    goto Phase.hMasks) s

/-- H_PALETTE above 8 bpp. -/
def skipPalette : Op Unit := do
  update fun s => { s with pal := none }
  goto Phase.hMasks

theorem stepPalette_of_hasPalette (h : hasPalette s.bitsPerPixel = true) : stepPalette s = loadPalette s := if_pos h

theorem stepPalette_of_not_hasPalette (h : hasPalette s.bitsPerPixel = false) : stepPalette s = skipPalette s :=
  if_neg (by simp [h])

theorem hasPalette_iff (bpp : U16) : hasPalette bpp = true ↔ bpp.toNat ≤ 8 := decide_eq_true_iff

/-- The palette store after `k` entries from a palette at the cursor. -/
def State.paletteFilled (s : State) (k : Nat) : PixelStore :=
  (PixelStore.alloc s.colorsCount.toNat).fill s.buf s.pos k 0

theorem loadPalette_ok (h : s.pos + 4 * s.colorsCount.toNat ≤ s.buf.len) :
    loadPalette s = .ok ()
      { s with pos := s.pos + 4 * s.colorsCount.toNat, pal := some (s.paletteFilled s.colorsCount.toNat)
               phase := Phase.hMasks } := by
  have hloop := readPaletteEntries_ok (s := { s with pal := some (PixelStore.alloc s.colorsCount.toNat) })
    (n := s.colorsCount.toNat) (i := 0) rfl h
  exact (op_bind_ok (op_update _ s)).trans (op_bind_ok hloop)

theorem loadPalette_error (hpos : s.pos ≤ s.buf.len) (h : s.buf.len < s.pos + 4 * s.colorsCount.toNat) :
    loadPalette s = .error ⟨.outOfBounds, s.buf.len + 1⟩
      { s with pos := s.buf.len, pal := some (s.paletteFilled ((s.buf.len - s.pos) / 4)) } := by
  have hloop := readPaletteEntries_error (s := { s with pal := some (PixelStore.alloc s.colorsCount.toNat) })
    (n := s.colorsCount.toNat) (i := 0) rfl hpos h
  exact (op_bind_ok (op_update _ s)).trans (op_bind_error hloop)

end Sys2Proof.Machine

namespace Sys2Proof.Statements
open Sys2Proof.Machine

/-- Settles O20: the loop fills a new store from the cursor on, up to the last entry that the buffer holds whole. -/
theorem paletteStepReadsEveryEntry : Obligations.PaletteStepReadsEveryEntry := by
  refine ⟨rfl, fun s bpp colors hbpp hcolors => ?_⟩
  have hdepth := bitsPerPixel_of_some hbpp
  obtain rfl : s.colorsCount = colors := colorsCount_of_some hcolors
  have hpalette (h : bpp.toNat ≤ 8) : stepPalette s = loadPalette s :=
    stepPalette_of_hasPalette (by rw [hdepth, hasPalette_iff]; exact h)
  refine ⟨fun h => ?_, fun h hlen => ?_, fun h hpos hlen => ?_⟩
  · have hnot : hasPalette s.bitsPerPixel = false := by
      rw [hdepth, Bool.eq_false_iff, ne_eq, hasPalette_iff]; omega
    exact congrArg Host.Outcome.next (runStep_ok _ (stepPalette_of_not_hasPalette hnot))
  · refine ⟨s.paletteFilled s.colorsCount.toNat,
      congrArg Host.Outcome.next (runStep_ok _ ((hpalette h).trans (loadPalette_ok hlen))), PixelStore.fill_size .., ?_⟩
    intro i hi
    exact (PixelStore.fill_alloc_get le_rfl i).trans (if_pos hi)
  · exact ⟨s.paletteFilled ((s.buf.len - s.pos) / 4),
      congrArg Host.Outcome.next (runStep_error _ ((hpalette h).trans (loadPalette_error hpos hlen))),
      PixelStore.fill_size .., PixelStore.fill_alloc_get (by omega)⟩

end Sys2Proof.Statements
end

section
/-! The parse as one function of the buffer (R173, R174): `State.Parsed` said over again in closed form, the metadata as
one record, the cursor as one position for each step, apart from the agreement of the control registers. -/
namespace Sys2Proof.Machine

/-- The metadata that the steps with codes below `p` read from the buffer, the masks left out (R173). -/
def Memory.fieldsTo (m : Memory) (p : Nat) : Metadata :=
  { fileSize := afterStep 2 p (m.u32At 2)
    dataOffset := afterStep 4 p (m.u32At 10)
    dibHeaderSize := afterStep 5 p (m.u32At 14)
    width := afterStep 6 p (m.u32At 18)
    height := afterStep 7 p (m.u32At 22)
    planesCount := afterStep 8 p (m.u16At 26)
    bitsPerPixel := afterStep 9 p (m.u16At 28)
    compression := afterStep 10 p (m.u32At 30)
    dataSize := afterStep 11 p (m.u32At 34)
    resolutionHorz := afterStep 12 p (m.u32At 38)
    resolutionVert := afterStep 13 p (m.u32At 42)
    colorsCount := afterStep 14 p m.colors
    importantColorsCount := afterStep 15 p (importantFallback (m.u32At 50) m.colors)
    maskR := none
    maskG := none
    maskB := none }

/-- The metadata without the masks. -/
def Metadata.fields (md : Metadata) : Metadata := { md with maskR := none, maskG := none, maskB := none }

/-- The masks. -/
def Metadata.masks (md : Metadata) : Option U32 × Option U32 × Option U32 := (md.maskR, md.maskG, md.maskB)

/-- The buffer begins with "BM" (R152). -/
def Memory.Signed (m : Memory) : Prop := m.byteAt 0 = 0x42 ∧ m.byteAt 1 = 0x4D

/-- Metadata and palette are what the steps with codes below `p` read from the buffer, and no step above `p` has
written; step `p` itself may have, before it faulted (R280). -/
structure Memory.HeaderRead (m : Memory) (p : Nat) (md : Metadata) (pal : Option PixelStore) : Prop where
  signature : 1 < p → m.Signed
  fields    : md.fields = m.fieldsTo p
  palette   : 16 < p → m.PaletteIs pal
  noPalette : p < 16 → pal = none
  masks     : 17 < p → md.masks = (m.mask 54, m.mask 58, m.mask 62)
  noMasks   : p < 17 → md.masks = (none, none, none)
  header    : 17 < p → hdrLen m.depth m.colors ≤ m.len

/-- Where the cursor is as the step `code` begins, up to D_SEEK (R174). -/
def Memory.stepPos (m : Memory) (code : Nat) : Nat :=
  if code ≤ 16 then headerOffset code else if code = 17 then m.paletteEnd else hdrLen m.depth m.colors

/-- As the step `code` begins, the cursor is where R174 says, and the step has written nothing. -/
structure Memory.StepBegins (m : Memory) (code : Nat) (md : Metadata) (pal : Option PixelStore) (pos : Nat) : Prop where
  pos       : 1 ≤ code → code ≤ 20 → pos = m.stepPos code
  noPalette : code = 16 → pal = none
  noMasks   : code = 17 → md.masks = (none, none, none)

/-- What `State.Parsed` says beside the agreement of the control registers. -/
structure State.ReadsBuffer (s : State) : Prop where
  read     : s.buf.HeaderRead s.progress s.md s.pal
  begins   : s.buf.StepBegins s.phase.toNat s.md s.pal s.pos
  inBounds : s.pos ≤ s.buf.len

/-! ### The phases of the parse -/

theorem statusOfPhase_eq_parsing_iff (phase : BitVec 5) :
    statusOfPhase phase = some .parsing ↔ 1 ≤ phase.toNat ∧ phase.toNat ≤ 17 := by
  revert phase; decide

theorem State.Coherent.parsing_iff {s : State} (hc : s.Coherent) :
    s.status = .parsing ↔ 1 ≤ s.phase.toNat ∧ s.phase.toNat ≤ 17 := by
  rw [← statusOfPhase_eq_parsing_iff, hc.status, Option.some.injEq]

theorem eq_hPalette_iff (phase : BitVec 5) : phase = Phase.hPalette ↔ phase.toNat = 16 := BitVec.toNat_inj.symm

theorem eq_hMasks_iff (phase : BitVec 5) : phase = Phase.hMasks ↔ phase.toNat = 17 := BitVec.toNat_inj.symm

theorem Metadata.masks_eq_iff (md : Metadata) (r g b : Option U32) :
    md.masks = (r, g, b) ↔ md.maskR = r ∧ md.maskG = g ∧ md.maskB = b := by
  simp [Metadata.masks]

/-! ### The closed form -/

theorem State.Parsed.headerRead {s : State} (h : s.Parsed) : s.buf.HeaderRead s.progress s.md s.pal where
  signature := h.signature
  fields := by
    simp only [Metadata.fields, Memory.fieldsTo, h.fileSize, h.dataOffset, h.dibHeaderSize, h.width, h.height,
      h.planesCount, h.bitsPerPixel, h.compression, h.dataSize, h.resolutionHorz, h.resolutionVert, h.colorsCount,
      h.importantColorsCount]
  palette := h.palette
  noPalette hp := h.noPalette (.inl hp)
  masks hp := (Metadata.masks_eq_iff ..).mpr (h.masks hp)
  noMasks hp := (Metadata.masks_eq_iff ..).mpr (h.noMasks (.inl hp))
  header := h.header

theorem State.Parsed.stepBegins {s : State} (h : s.Parsed) : s.buf.StepBegins s.phase.toNat s.md s.pal s.pos where
  pos hlo hhi := by
    have hstatus := h.coherent.parsing_iff
    have hmasks := eq_hMasks_iff s.phase
    unfold Memory.stepPos
    split
    · exact h.headerPos (hstatus.mpr ⟨hlo, by omega⟩) (mt hmasks.mp (by omega))
    · split
      · exact h.masksPos (hmasks.mpr ‹_›)
      · exact h.decodePos (by omega) hhi
  noPalette hcode := h.noPalette (.inr ((eq_hPalette_iff _).mpr hcode))
  noMasks hcode := (Metadata.masks_eq_iff ..).mpr (h.noMasks (.inr ((eq_hMasks_iff _).mpr hcode)))

theorem State.Parsed.readsBuffer {s : State} (h : s.Parsed) : s.ReadsBuffer := ⟨h.headerRead, h.stepBegins, h.inBounds⟩

theorem State.ReadsBuffer.parsed {s : State} (h : s.ReadsBuffer) (hc : s.Coherent) : s.Parsed := by
  obtain ⟨⟨signature, fields, palette, noPalette, masks, noMasks, header⟩, ⟨pos, noPalette', noMasks'⟩, inBounds⟩ := h
  have hstatus := hc.parsing_iff
  have hmasks := eq_hMasks_iff s.phase
  unfold Memory.stepPos at pos
  simp only [Metadata.fields, Memory.fieldsTo, Metadata.mk.injEq] at fields
  obtain ⟨h₁, h₂, h₃, h₄, h₅, h₆, h₇, h₈, h₉, h₁₀, h₁₁, h₁₂, h₁₃, -⟩ := fields
  exact
    { coherent := hc
      signature := signature
      fileSize := h₁
      dataOffset := h₂
      dibHeaderSize := h₃
      width := h₄
      height := h₅
      planesCount := h₆
      bitsPerPixel := h₇
      compression := h₈
      dataSize := h₉
      resolutionHorz := h₁₀
      resolutionVert := h₁₁
      colorsCount := h₁₂
      importantColorsCount := h₁₃
      palette := palette
      noPalette := fun h => h.elim noPalette fun hp => noPalette' ((eq_hPalette_iff _).mp hp)
      masks := fun h => (Metadata.masks_eq_iff ..).mp (masks h)
      noMasks := fun h => (Metadata.masks_eq_iff ..).mp (h.elim noMasks fun hp => noMasks' (hmasks.mp hp))
      headerPos := fun hp hne => by
        obtain ⟨hlo, hhi⟩ := hstatus.mp hp
        have hcode : s.phase.toNat ≠ 17 := mt hmasks.mpr hne
        rw [pos (by omega) (by omega), if_pos (by omega)]
      masksPos := fun hp => by
        have hcode := hmasks.mp hp
        rw [pos (by omega) (by omega), if_neg (by omega), if_pos (by omega)]
      decodePos := fun hlo hhi => by
        rw [pos (by omega) hhi, if_neg (by omega), if_neg (by omega)]
      header := header
      inBounds := inBounds }

theorem parsed_iff (s : State) : s.Parsed ↔ s.Coherent ∧ s.ReadsBuffer :=
  ⟨fun h => ⟨h.coherent, h.readsBuffer⟩, fun h => h.2.parsed h.1⟩

/-! ### Reading the closed form -/

variable {m : Memory} {p q : Nat} {md : Metadata} {pal : Option PixelStore}

theorem Memory.HeaderRead.bitsPerPixel (h : m.HeaderRead p md pal) (hp : 9 < p) : md.bitsPerPixel = some m.depth :=
  (congrArg Metadata.bitsPerPixel h.fields).trans (if_pos hp)

theorem Memory.HeaderRead.colorsCount (h : m.HeaderRead p md pal) (hp : 14 < p) : md.colorsCount = some m.colors :=
  (congrArg Metadata.colorsCount h.fields).trans (if_pos hp)

/-- Without masks the metadata are their fields. -/
theorem Metadata.fields_eq_self (h : md.masks = (none, none, none)) : md.fields = md := by
  obtain ⟨⟩ := md
  simp only [Metadata.masks, Prod.mk.injEq] at h
  simp [Metadata.fields, h]

/-- Before H_MASKS the metadata are the fields read so far. -/
theorem Memory.HeaderRead.md_eq (h : m.HeaderRead p md pal) (hp : p < 17) : md = m.fieldsTo p :=
  (Metadata.fields_eq_self (h.noMasks hp)).symm.trans h.fields

theorem Memory.fieldsTo_of_passed (hp : 15 < p) : m.fieldsTo p = m.fieldsTo 16 := by
  have hpassed : ∀ k, k ≤ 15 → k < p := fun k hk => by omega
  simp [Memory.fieldsTo, afterStep, hpassed]

/-- After the header the closed form no longer changes. -/
theorem Memory.HeaderRead.of_passed (h : m.HeaderRead p md pal) (hp : 17 < p) (hq : 17 < q) :
    m.HeaderRead q md pal where
  signature _ := h.signature (by omega)
  fields := h.fields.trans ((Memory.fieldsTo_of_passed (by omega)).trans (Memory.fieldsTo_of_passed (by omega)).symm)
  palette _ := h.palette (by omega)
  noPalette hlt := by omega
  masks _ := h.masks hp
  noMasks hlt := by omega
  header _ := h.header hp

end Sys2Proof.Machine
end

section
/-! A header step reads the next field of the buffer (R151, R173): the closed form of the parse, kept by each of the
seventeen steps. -/
namespace Sys2Proof.Machine
open Sys2Proof.Statements

variable {α : Type} {P Q : State → Prop} {code : BitVec 5} {s : State}

/-- Within the header step `code`, what its fault leaves: the steps before it passed, its own writes unfinished. -/
def State.ReadTo (code : BitVec 5) (s : State) : Prop :=
  s.buf.HeaderRead code.toNat s.md s.pal ∧ s.pos ≤ s.buf.len

/-- The state in which the header step `code` begins. -/
structure State.AtHeader (code : BitVec 5) (s : State) : Prop where
  phase  : s.phase = code
  status : s.status = .parsing
  range  : 1 ≤ code.toNat ∧ code.toNat ≤ 17
  reads  : s.ReadsBuffer

namespace State.AtHeader

theorem headerRead (h : s.AtHeader code) : s.buf.HeaderRead code.toNat s.md s.pal := by
  have hprogress : s.progress = code.toNat := by rw [progress_of_running (.inl h.status), h.phase]
  exact hprogress ▸ h.reads.read

theorem stepBegins (h : s.AtHeader code) : s.buf.StepBegins code.toNat s.md s.pal s.pos := h.phase ▸ h.reads.begins

theorem readTo (h : s.AtHeader code) : s.ReadTo code := ⟨h.headerRead, h.reads.inBounds⟩

theorem pos_eq (h : s.AtHeader code) (hcode : code.toNat ≤ 16) : s.pos = headerOffset code.toNat :=
  (h.stepBegins.pos h.range.1 (by omega)).trans (if_pos hcode)

theorem md_eq (h : s.AtHeader code) (hcode : code.toNat ≤ 16) : s.md = s.buf.fieldsTo code.toNat :=
  h.headerRead.md_eq (by omega)

theorem depth_eq (h : s.AtHeader code) (hcode : 9 < code.toNat) : s.bitsPerPixel = s.buf.depth :=
  bitsPerPixel_of_some (h.headerRead.bitsPerPixel hcode)

theorem colors_eq (h : s.AtHeader code) (hcode : 14 < code.toNat) : s.colorsCount = s.buf.colors :=
  colorsCount_of_some (h.headerRead.colorsCount hcode)

theorem pos_eq_paletteEnd (h : s.AtHeader Phase.hMasks) : s.pos = s.buf.paletteEnd :=
  h.stepBegins.pos (by decide) (by decide)

end State.AtHeader

/-! ### How a step ends -/

theorem Memory.StepBegins.of_lt {m : Memory} {c pos : Nat} {md : Metadata} {pal : Option PixelStore} (h : 20 < c) :
    m.StepBegins c md pal pos := ⟨fun _ _ => by omega, fun _ => by omega, fun _ => by omega⟩

/-- In a run the step in progress is the one that `phase` names. -/
theorem State.ReadsBuffer.of_running {c : Nat} (hrun : s.status = .parsing ∨ s.status = .decoding)
    (hphase : s.phase.toNat = c) (hread : s.buf.HeaderRead c s.md s.pal) (hbegins : s.buf.StepBegins c s.md s.pal s.pos)
    (hin : s.pos ≤ s.buf.len) : s.ReadsBuffer := by
  subst hphase
  exact ⟨progress_of_running hrun ▸ hread, hbegins, hin⟩

/-- A fault leaves what the steps before it have read (R280). -/
theorem takeFault_readsBuffer (r : Raise) (h : s.ReadTo code) : (takeFault r code s).ReadsBuffer :=
  ⟨h.1, .of_lt (c := 31) (by decide), h.2⟩

theorem runStep_readsBuffer {op : Op Unit} (h : LeadsIn (State.ReadTo code) State.ReadsBuffer (op s)) :
    (runStep code op s).ReadsBuffer := by
  cases hr : op s with
  | ok u t => rw [hr] at h; rw [runStep_ok code hr]; exact h
  | error r t => rw [hr] at h; rw [runStep_error code hr]; exact takeFault_readsBuffer r h

/-- A step that begins with a read: what holds before it holds of its fault, and the rest follows the read. -/
theorem LeadsIn.cursorRead {n : Nat} {value : State → α} {f : α → Op Unit} (hs : P s)
    (hf : s.pos + n ≤ s.buf.len → LeadsIn P Q (f (value s) { s with pos := s.pos + n })) :
    LeadsIn P Q ((Machine.cursorRead n value >>= f) s) := by
  by_cases h : s.pos + n ≤ s.buf.len
  · rw [op_bind_ok (cursorRead_ok n value s h)]; exact hf h
  · rw [op_bind_error (cursorRead_error n value s (Nat.lt_of_not_le h))]; exact hs

/-! ### The steps before H_PALETTE: one field each (R91) -/

/-- After the field of step `code` the state is that in which the next step begins. -/
theorem fieldRead_readsBuffer {n : Nat} {md : Metadata} (hs : s.AtHeader code) (hcode : code.toNat ≤ 15)
    (hin : s.pos + n ≤ s.buf.len) (hoffset : headerOffset (code.toNat + 1) = headerOffset code.toNat + n)
    (hmd : md = s.buf.fieldsTo (code.toNat + 1)) (hsigned : s.buf.Signed) :
    { s with pos := s.pos + n, md := md, phase := code + 1 }.ReadsBuffer := by
  have hnext : (code + 1).toNat = code.toNat + 1 := by bv_omega
  have hpal : s.pal = none := hs.headerRead.noPalette (by omega)
  have hmasks : md.masks = (none, none, none) := by rw [hmd]; rfl
  refine .of_running (.inl hs.status) hnext ?_ ?_ hin
  · exact
      { signature := fun _ => hsigned
        fields := by rw [hmd]; rfl
        palette := fun h => by omega
        noPalette := fun _ => hpal
        masks := fun h => by omega
        noMasks := fun _ => hmasks
        header := fun h => by omega }
  · exact
      { pos := fun _ _ => by
          rw [Memory.stepPos, if_pos (by omega), hoffset]
          exact congrArg (· + n) (hs.pos_eq (by omega))
        noPalette := fun _ => hpal
        noMasks := fun _ => hmasks }

/-- A step that reads a field of `n` bytes and writes a register with it, or none. -/
theorem fieldStep_readsBuffer {n : Nat} {md : Metadata} {value : State → α} {f : α → Op Unit} (hs : s.AtHeader code)
    (hcode : 1 < code.toNat ∧ code.toNat ≤ 15)
    (hoffset : headerOffset (code.toNat + 1) = headerOffset code.toNat + n)
    (hf : f (value s) { s with pos := s.pos + n } = .ok () { s with pos := s.pos + n, md := md, phase := code + 1 })
    (hmd : md = s.buf.fieldsTo (code.toNat + 1)) : (runStep code (cursorRead n value >>= f) s).ReadsBuffer := by
  refine runStep_readsBuffer (.cursorRead hs.readTo fun hin => ?_)
  rw [hf]
  exact fieldRead_readsBuffer hs hcode.2 hin hoffset hmd (hs.headerRead.signature hcode.1)

theorem readField32_readsBuffer {write : U32 → Metadata → Metadata} {next : BitVec 5} (hs : s.AtHeader code)
    (hcode : 1 < code.toNat ∧ code.toNat ≤ 15) (hnext : next = code + 1)
    (hoffset : headerOffset (code.toNat + 1) = headerOffset code.toNat + 4)
    (hwrite : ∀ m : Memory, write (m.u32At (headerOffset code.toNat)) (m.fieldsTo code.toNat) =
      m.fieldsTo (code.toNat + 1)) : (runStep code (readField32 write next) s).ReadsBuffer := by
  subst hnext
  refine fieldStep_readsBuffer (md := write (s.buf.u32At s.pos) s.md) hs hcode hoffset rfl ?_
  rw [hs.md_eq (by omega), hs.pos_eq (by omega), hwrite]

theorem readField16_readsBuffer {write : U16 → Metadata → Metadata} {next : BitVec 5} (hs : s.AtHeader code)
    (hcode : 1 < code.toNat ∧ code.toNat ≤ 15) (hnext : next = code + 1)
    (hoffset : headerOffset (code.toNat + 1) = headerOffset code.toNat + 2)
    (hwrite : ∀ m : Memory, write (m.u16At (headerOffset code.toNat)) (m.fieldsTo code.toNat) =
      m.fieldsTo (code.toNat + 1)) : (runStep code (readField16 write next) s).ReadsBuffer := by
  subst hnext
  refine fieldStep_readsBuffer (md := write (s.buf.u16At s.pos) s.md) hs hcode hoffset rfl ?_
  rw [hs.md_eq (by omega), hs.pos_eq (by omega), hwrite]

theorem stepSig_readsBuffer (hs : s.AtHeader Phase.hSig) : (runStep Phase.hSig stepSig s).ReadsBuffer := by
  refine runStep_readsBuffer (.cursorRead hs.readTo fun hin => ?_)
  have hpos : s.pos = 0 := hs.pos_eq (by decide)
  show LeadsIn _ _ (checkSignature (signatureText s) _)
  by_cases h : s.buf.byteAt s.pos = 0x42 ∧ s.buf.byteAt (s.pos + 1) = 0x4D
  · rw [checkSignature_ok h]
    rw [hpos] at h
    exact fieldRead_readsBuffer hs (by decide) hin rfl (hs.md_eq (by decide)) h
  · rw [checkSignature_error h]
    exact ⟨hs.headerRead, hin⟩

theorem stepReserved_readsBuffer (hs : s.AtHeader Phase.hReserved) :
    (runStep Phase.hReserved stepReserved s).ReadsBuffer :=
  fieldStep_readsBuffer hs (by decide) rfl rfl (hs.md_eq (by decide))

theorem stepColors_readsBuffer (hs : s.AtHeader Phase.hColors) : (runStep Phase.hColors stepColors s).ReadsBuffer := by
  refine fieldStep_readsBuffer
    (md := { s.md with colorsCount := some (colorsFallback (s.buf.u32At s.pos) s.bitsPerPixel) })
    hs (by decide) rfl rfl ?_
  rw [hs.depth_eq (by decide), hs.md_eq (by decide), hs.pos_eq (by decide)]
  rfl

theorem stepImpcolors_readsBuffer (hs : s.AtHeader Phase.hImpcolors) :
    (runStep Phase.hImpcolors stepImpcolors s).ReadsBuffer := by
  refine fieldStep_readsBuffer
    (md := { s.md with importantColorsCount := some (importantFallback (s.buf.u32At s.pos) s.colorsCount) })
    hs (by decide) rfl rfl ?_
  rw [hs.colors_eq (by decide), hs.md_eq (by decide), hs.pos_eq (by decide)]
  rfl

/-! ### H_PALETTE (R168) -/

/-- The palette read or left out, H_MASKS begins at its end. -/
theorem paletteRead_readsBuffer {pal : Option PixelStore} {pos : Nat} (hs : s.AtHeader Phase.hPalette)
    (hpal : s.buf.PaletteIs pal) (hpos : pos = s.buf.paletteEnd) (hin : pos ≤ s.buf.len) :
    { s with pos := pos, pal := pal, phase := Phase.hMasks }.ReadsBuffer := by
  have hread := hs.headerRead
  have hmasks := hread.noMasks (by decide)
  refine .of_running (c := 17) (.inl hs.status) rfl ?_
    ⟨fun _ _ => hpos, fun h => absurd h (by decide), fun _ => hmasks⟩ hin
  exact
    { signature := fun _ => hread.signature (by decide)
      fields := hread.fields
      palette := fun _ => hpal
      noPalette := fun h => absurd h (by decide)
      masks := fun h => absurd h (by decide)
      noMasks := fun h => absurd h (by decide)
      header := fun h => absurd h (by decide) }

theorem entryAt_eq_paletteColor (m : Memory) (i : Nat) : m.entryAt (54 + 4 * i) = m.paletteColor i := by
  simp [Memory.entryAt, Memory.paletteColor, Nat.add_right_comm]

/-- The filled store is the buffer's palette. -/
theorem paletteFilled_paletteIs (hs : s.AtHeader Phase.hPalette) (h : hasPalette s.buf.depth = true) :
    s.buf.PaletteIs (some (s.paletteFilled s.colorsCount.toNat)) := by
  have hpos : s.pos = 54 := hs.pos_eq (by decide)
  rw [Memory.PaletteIs, if_pos h, ← hs.colors_eq (by decide)]
  refine ⟨_, rfl, PixelStore.fill_size .., fun i hi => ?_⟩
  rw [State.paletteFilled, PixelStore.fill_alloc_get le_rfl, if_pos hi, hpos, entryAt_eq_paletteColor]

theorem stepPalette_readsBuffer (hs : s.AtHeader Phase.hPalette) :
    (runStep Phase.hPalette stepPalette s).ReadsBuffer := by
  refine runStep_readsBuffer ?_
  have hpos : s.pos = 54 := hs.pos_eq (by decide)
  have hdepth := hs.depth_eq (by decide)
  cases h : hasPalette s.buf.depth with
  | true =>
    rw [stepPalette_of_hasPalette (by rw [hdepth, h])]
    by_cases hin : s.pos + 4 * s.colorsCount.toNat ≤ s.buf.len
    · rw [loadPalette_ok hin]
      refine paletteRead_readsBuffer hs (paletteFilled_paletteIs hs h) ?_ hin
      rw [Memory.paletteEnd, if_pos h, hpos, hs.colors_eq (by decide)]
    · rw [loadPalette_error hs.reads.inBounds (Nat.lt_of_not_le hin)]
      exact ⟨{ hs.headerRead with
        palette := fun h => absurd h (by decide), noPalette := fun h => absurd h (by decide) }, le_rfl⟩
  | false =>
    have hskip : stepPalette s = .ok () { s with pal := none, phase := Phase.hMasks } :=
      stepPalette_of_not_hasPalette (by rw [hdepth, h])
    rw [hskip]
    refine paletteRead_readsBuffer hs ?_ ?_ hs.reads.inBounds
    · simp [Memory.PaletteIs, h]
    · simp [Memory.paletteEnd, h, hpos]

/-! ### H_MASKS (R169) and the end of the parse (R171) -/

/-- The masks read or left out, the header is read whole. -/
theorem masksRead_readsBuffer {md : Metadata} {pos : Nat} (hs : s.AtHeader Phase.hMasks)
    (hfields : md.fields = s.md.fields)
    (hmasks : md.masks = (s.buf.mask 54, s.buf.mask 58, s.buf.mask 62))
    (hpos : pos = hdrLen s.buf.depth s.buf.colors) (hin : pos ≤ s.buf.len) :
    { s with pos := pos, md := md, mdValid := true, status := .decoding, phase := Phase.dChkcomp }.ReadsBuffer := by
  have hread := hs.headerRead
  refine .of_running (c := 18) (.inr rfl) rfl ?_
    ⟨fun _ _ => hpos, fun h => absurd h (by decide), fun h => absurd h (by decide)⟩ hin
  exact
    { signature := fun _ => hread.signature (by decide)
      fields := hfields.trans (hread.fields.trans rfl)
      palette := fun _ => hread.palette (by decide)
      noPalette := fun h => absurd h (by decide)
      masks := fun _ => hmasks
      noMasks := fun h => absurd h (by decide)
      header := fun _ => hpos ▸ hin }

/-- At depth 16 there is no palette before the masks. -/
theorem not_hasPalette_of_hasMasks {bpp : U16} (h : hasMasks bpp = true) : ¬ hasPalette bpp = true := by
  rw [hasPalette_iff, (hasMasks_iff _).mp h]
  decide

theorem paletteEnd_of_hasMasks {m : Memory} (h : hasMasks m.depth = true) : m.paletteEnd = 54 :=
  if_neg (not_hasPalette_of_hasMasks h)

theorem hdrLen_of_hasMasks {m : Memory} (h : hasMasks m.depth = true) : hdrLen m.depth m.colors = 54 + 4 + 4 + 4 := by
  rw [hdrLen, if_neg (not_hasPalette_of_hasMasks h), if_pos h]

theorem hdrLen_of_not_hasMasks {m : Memory} (h : hasMasks m.depth = false) :
    hdrLen m.depth m.colors = m.paletteEnd := by
  simp [hdrLen, Memory.paletteEnd, h]

theorem stepMasks_readsBuffer (hs : s.AtHeader Phase.hMasks) : (runStep Phase.hMasks stepMasks s).ReadsBuffer := by
  refine runStep_readsBuffer ?_
  have hdepth := hs.depth_eq (by decide)
  have hpos := hs.pos_eq_paletteEnd
  have hfault : ∀ pos md, md.fields = s.md.fields → pos ≤ s.buf.len →
      { s with pos := pos, md := md }.ReadTo Phase.hMasks := fun pos md hfields hin =>
    ⟨{ hs.headerRead with
        fields := hfields.trans hs.headerRead.fields, masks := fun h => absurd h (by decide)
        noMasks := fun h => absurd h (by decide) }, hin⟩
  cases h : hasMasks s.buf.depth with
  | true =>
    rw [paletteEnd_of_hasMasks h] at hpos
    rw [stepMasks_of_hasMasks (by rw [hdepth, h])]
    refine .cursorRead hs.readTo fun h₁ => .cursorRead (hfault _ _ rfl h₁) fun h₂ => .cursorRead (hfault _ _ rfl h₂)
      fun h₃ => masksRead_readsBuffer (s := s) hs rfl ?_ ?_ h₃
    · simp [Metadata.masks, Memory.mask, h, hpos]
    · rw [hdrLen_of_hasMasks h, ← hpos]
  | false =>
    rw [stepMasks_of_not_hasMasks (by rw [hdepth, h])]
    refine masksRead_readsBuffer (s := s) hs rfl ?_ ?_ hs.reads.inBounds
    · simp [Metadata.masks, Memory.mask, h]
    · rw [hpos, hdrLen_of_not_hasMasks h]

/-! ### Every header step -/

theorem exec_header_readsBuffer {i : Instr} (hi : encode i = some (.ph code)) (hs : s.AtHeader code) :
    NextIn State.ReadsBuffer (exec i s) := by
  cases i with
  | hSig => cases hi; exact stepSig_readsBuffer hs
  | hReserved => cases hi; exact stepReserved_readsBuffer hs
  | hFilesize | hDataoffset | hDibsize | hWidth | hHeight | hCompression | hDatasize | hResh | hResv =>
    cases hi; exact readField32_readsBuffer hs (by decide) rfl rfl fun _ => rfl
  | hPlanes | hBpp => cases hi; exact readField16_readsBuffer hs (by decide) rfl rfl fun _ => rfl
  | hColors => cases hi; exact stepColors_readsBuffer hs
  | hImpcolors => cases hi; exact stepImpcolors_readsBuffer hs
  | hPalette => cases hi; exact stepPalette_readsBuffer hs
  | hMasks => cases hi; exact stepMasks_readsBuffer hs
  | dChkcomp | dChkdepth | dSeek | dAlloc | dRowstart | dPixel | dRowend | dFinish =>
    cases hi; exact absurd hs.range.2 (by decide)
  | _ => simp [encode] at hi

end Sys2Proof.Machine
end

section
/-! The parse stays read: the decoder's steps leave what the header steps have read, and the host's moves begin a new
session or change none of it (R40, R173, R174). -/
namespace Sys2Proof.Machine
open Sys2Proof.Statements

variable {code : BitVec 5} {s t : State}

/-! ### The cursor in the decode (R138, R174) -/

/-- The cursor is in its buffer (R138). -/
def State.InBuffer (s : State) : Prop := s.pos ≤ s.buf.len

theorem seek_inBuffer (p : Nat) : Holds State.InBuffer (seek p) := by
  intro s hs
  by_cases h : p ≤ s.buf.len
  · rw [seek_ok p s h]; exact h
  · rw [seek_error p s (Nat.lt_of_not_le h)]; exact ⟨hs, trivial⟩

theorem skip_inBuffer (n : Nat) : Holds State.InBuffer (skip n) := fun s hs => seek_inBuffer (s.pos + n) s hs

theorem cursorRead_inBuffer {α : Type} (n : Nat) (value : State → α) : Holds State.InBuffer (cursorRead n value) := by
  intro s hs
  by_cases h : s.pos + n ≤ s.buf.len
  · rw [cursorRead_ok n value s h]; exact h
  · rw [cursorRead_error n value s (Nat.lt_of_not_le h)]; exact ⟨hs, trivial⟩

theorem consumeBits_inBuffer (bpp : Nat) : Holds State.InBuffer (consumeBits bpp) := by
  intro s hs
  unfold consumeBits
  by_cases h : bpp ≤ s.bitsRemaining.val <;> simp only [h, if_true, if_false] <;> exact hs

/-- A register write that leaves buffer and cursor; for a write of other fields that is seen by `rfl`. -/
theorem update_inBuffer {f : State → State}
    (hf : ∀ s, (f s).buf = s.buf ∧ (f s).pos = s.pos := by intro _; exact ⟨rfl, rfl⟩) :
    Holds State.InBuffer (update f) := Keeps.update fun s hs => by
  obtain ⟨hbuf, hpos⟩ := hf s
  rwa [State.InBuffer, hbuf, hpos]

theorem goto_inBuffer (phase : BitVec 5) : Holds State.InBuffer (goto phase) := update_inBuffer

theorem countRowBytes_inBuffer (n : Nat) : Holds State.InBuffer (countRowBytes n) := update_inBuffer

theorem unpack_inBuffer (d : SubDepth) : Holds State.InBuffer (unpack d) :=
  have fetchByte_inBuffer : Holds State.InBuffer fetchByte :=
    (cursorRead_inBuffer 1 _).bind fun _ => (countRowBytes_inBuffer 1).bind fun _ => update_inBuffer
  .iteState (fun _ => fetchByte_inBuffer.bind fun _ => consumeBits_inBuffer _) fun _ => consumeBits_inBuffer _

theorem lookup_inBuffer (index : Nat) : Holds State.InBuffer (lookup index) :=
  .iteState (op₁ := fun _ => raise .paletteIndexRange index) (op₂ := fun _ => ask fun s => s.palEntry index)
    (fun _ => .raise trivial) fun _ => .ask _

theorem pixelOp_inBuffer (f : PixelFormat) : Holds State.InBuffer (pixelOp f) := by
  have byte : Holds State.InBuffer rdu8 := cursorRead_inBuffer 1 _
  cases f with
  | p1 | p2 | p4 => exact (unpack_inBuffer _).bind lookup_inBuffer
  | p8 => exact byte.bind fun _ => (countRowBytes_inBuffer 1).bind fun _ => lookup_inBuffer _
  | p16 => exact (cursorRead_inBuffer 2 _).bind fun _ => (countRowBytes_inBuffer 2).bind fun _ => .ask _
  | p24 =>
    exact byte.bind fun _ => byte.bind fun _ => byte.bind fun _ => (countRowBytes_inBuffer 3).bind fun _ => .pure _
  | p32 =>
    exact byte.bind fun _ => byte.bind fun _ => byte.bind fun _ => byte.bind fun _ =>
      (countRowBytes_inBuffer 4).bind fun _ => .pure _

theorem storePixel_inBuffer (p : Rgba8) (hs : s.InBuffer) : NextIn State.InBuffer (storePixel p s) := by
  unfold storePixel
  split
  · trivial
  · split
    · exact hs
    · trivial

theorem execDPixel_inBuffer (hs : s.InBuffer) : NextIn State.InBuffer (execDPixel s) := by
  unfold execDPixel
  cases formatOfDepth s.bitsPerPixel with
  | none => trivial
  | some f =>
    have h := pixelOp_inBuffer f s hs
    cases hr : pixelOp f s with
    | ok p t => rw [hr] at h; simpa only [hr] using storePixel_inBuffer p h
    | error r t => rw [hr] at h; simp only [hr]; exact h.1

theorem runStep_inBuffer {op : Op Unit} (hop : Holds State.InBuffer op) (hs : s.InBuffer) :
    (runStep code op s).InBuffer := by
  have h := hop s hs
  cases hr : op s with
  | ok u t => rw [hr] at h; rw [runStep_ok code hr]; exact h
  | error r t => rw [hr] at h; rw [runStep_error code hr]; exact h.1

theorem stepChkcomp_inBuffer : Holds State.InBuffer stepChkcomp :=
  .iteState (fun _ => goto_inBuffer _) fun _ => .raise trivial

theorem stepChkdepth_inBuffer : Holds State.InBuffer stepChkdepth :=
  .iteState (fun _ => goto_inBuffer _) fun _ => .raise trivial

theorem stepSeek_inBuffer : Holds State.InBuffer stepSeek :=
  fun s => ((seek_inBuffer s.dataOffset.toNat).bind fun _ => goto_inBuffer _) s

theorem stepRowend_inBuffer : Holds State.InBuffer stepRowend := by
  intro s
  refine ((skip_inBuffer (padBytes s.rowBytes)).bind fun _ => .bind update_inBuffer fun _ => update_inBuffer ?_) s
  intro t
  split <;> exact ⟨rfl, rfl⟩

/-- No decoder step takes the cursor out of its buffer. -/
theorem exec_decoder_inBuffer {i : Instr} (hi : encode i = some (.ph code)) (hcode : 18 ≤ code.toNat)
    (hs : s.InBuffer) : NextIn State.InBuffer (exec i s) := by
  cases i with
  | dChkcomp => exact runStep_inBuffer stepChkcomp_inBuffer hs
  | dChkdepth => exact runStep_inBuffer stepChkdepth_inBuffer hs
  | dSeek => exact runStep_inBuffer stepSeek_inBuffer hs
  | dAlloc => exact nextIn_of_eq_next fun t h => by simpa [execDAlloc_eq_next h, State.InBuffer] using hs
  | dRowstart => exact hs
  | dPixel => exact execDPixel_inBuffer hs
  | dRowend => exact runStep_inBuffer stepRowend_inBuffer hs
  | dFinish => exact hs
  | hSig | hFilesize | hReserved | hDataoffset | hDibsize | hWidth | hHeight | hPlanes | hBpp | hCompression
  | hDatasize | hResh | hResv | hColors | hImpcolors | hPalette | hMasks => cases hi; exact absurd hcode (by decide)
  | _ => simp [encode] at hi

/-- D_SEEK not being passed, the step before was one of the two checks. -/
def State.AfterCheck (code : BitVec 5) (t : State) : Prop := t.phase.toNat ≤ 20 → code.toNat ≤ 19

theorem afterCheck_of_phase {next : BitVec 5} (hphase : t.phase = next) (hnext : 20 < next.toNat) :
    t.AfterCheck code := fun hle => by rw [hphase] at hle; omega

theorem decoderMoves_afterCheck (code : BitVec 5) : DecoderMoves (fun _ => True) (State.AfterCheck code) code where
  fault _ _ _ := afterCheck_of_phase (next := Phase.failed) rfl (by decide)
  next hcode t _ hle := by
    have hle' : (code + 1).toNat ≤ 20 := hle
    bv_omega
  alloc _ t _ := by
    by_cases h : t.height = 0
    · exact afterCheck_of_phase ((allocOutput_phase t).trans (if_pos h)) (by decide)
    · exact afterCheck_of_phase ((allocOutput_phase t).trans (if_neg h)) (by decide)
  rowStart _ t _ := by
    by_cases h : t.width = 0
    · exact afterCheck_of_phase ((startRow_phase t).trans (if_pos h)) (by decide)
    · exact afterCheck_of_phase ((startRow_phase t).trans (if_neg h)) (by decide)
  pixel _ _ _ _ _ _ hnext := by
    rcases hnext with rfl | rfl
    · exact afterCheck_of_phase (next := Phase.dPixel) rfl (by decide)
    · exact afterCheck_of_phase (next := Phase.dRowend) rfl (by decide)
  nextRow _ _ _ _ := afterCheck_of_phase (next := Phase.dRowstart) rfl (by decide)
  lastRow _ _ _ := afterCheck_of_phase (next := Phase.dFinish) rfl (by decide)
  finish _ _ _ := afterCheck_of_phase (next := Phase.done) rfl (by decide)

/-- The cursor is where it is in `s`. -/
def State.SamePos (s t : State) : Prop := t.pos = s.pos

/-- The two checks do not move the cursor (R191, R192). -/
theorem exec_check_pos {i : Instr} (hi : encode i = some (.ph code)) (hlo : 18 ≤ code.toNat) (hhi : code.toNat ≤ 19) :
    NextIn s.SamePos (exec i s) := by
  cases i with
  | dChkcomp => exact (stepChkcomp_leads (P := s.SamePos) (Q := s.SamePos) fun _ ht => ht).runStep rfl fun _ _ ht => ht
  | dChkdepth =>
    exact (stepChkdepth_leads (P := s.SamePos) (Q := s.SamePos) fun _ ht => ht).runStep rfl fun _ _ ht => ht
  | dSeek | dAlloc | dRowstart | dPixel | dRowend | dFinish => cases hi; exact absurd hhi (by decide)
  | hSig | hFilesize | hReserved | hDataoffset | hDibsize | hWidth | hHeight | hPlanes | hBpp | hCompression
  | hDatasize | hResh | hResv | hColors | hImpcolors | hPalette | hMasks => cases hi; exact absurd hlo (by decide)
  | _ => simp [encode] at hi

/-- Until D_SEEK is passed, the cursor is where the step before has found it. -/
theorem exec_pos_beforeSeek {i : Instr} (hi : encode i = some (.ph code)) (hcode : 18 ≤ code.toNat)
    (h : exec i s = .next t) (ht : t.phase.toNat ≤ 20) : code.toNat ≤ 19 ∧ t.pos = s.pos := by
  have hafter := exec_decoder (s := s) (fun _ => Iff.rfl) hi hcode trivial (decoderMoves_afterCheck code)
  rw [h] at hafter
  have hpos := exec_check_pos (s := s) hi hcode (hafter ht)
  rw [h] at hpos
  exact ⟨hafter ht, hpos⟩

/-! ### A step of the decode -/

/-- Past the end of the parse no header step is in progress. -/
theorem phase_of_passed (hc : t.Coherent) (hp : 17 < t.progress) (hphase : 1 ≤ t.phase.toNat) :
    18 ≤ t.phase.toNat := by
  by_contra hlt
  have hprogress := progress_of_running (.inl (hc.parsing_iff.mpr ⟨hphase, by omega⟩))
  omega

theorem exec_decoder_readsBuffer {i : Instr} (hc : s.Coherent) (hrun : s.status = .parsing ∨ s.status = .decoding)
    (hi : encode i = some (.ph s.phase)) (hcode : 18 ≤ s.phase.toNat) (hs : s.ReadsBuffer) (h : exec i s = .next t)
    (hct : t.Coherent) : t.ReadsBuffer := by
  have hprogress := progress_of_running hrun
  have hsame := exec_sameParse (s := s) hi hcode
  have hkept := exec_memoriesKept (i := i) s (by rintro rfl; simp [encode] at hi)
  have hin := exec_decoder_inBuffer hi hcode (s := s) hs.inBounds
  rw [h] at hsame hkept hin
  obtain ⟨hmd, hpal, hmdValid⟩ := hsame
  have hbuf : t.buf = s.buf := hkept.buf
  have hpassed : 17 < t.progress := by
    have hvalid := hct.mdValid
    rw [hmdValid, hc.mdValid, decide_eq_decide] at hvalid
    omega
  have hphase := phase_of_passed hct hpassed
  refine ⟨?_, ⟨fun hlo hhi => ?_, fun heq => absurd (hphase (by omega)) (by omega),
    fun heq => absurd (hphase (by omega)) (by omega)⟩, hin⟩
  · rw [hbuf, hmd, hpal]
    exact hs.read.of_passed (by omega) hpassed
  · obtain ⟨hcheck, hpos⟩ := exec_pos_beforeSeek hi hcode h hhi
    have hge := hphase hlo
    have hstart := hs.begins.pos (by omega) (by omega)
    rw [Memory.stepPos, if_neg (by omega), if_neg (by omega)] at hstart
    rw [Memory.stepPos, if_neg (by omega), if_neg (by omega), hpos, hbuf, hstart]

/-! ### The host's moves -/

/-- Before the first field is read every register is unwritten. -/
theorem Memory.HeaderRead.unwritten (m : Memory) {p : Nat} (hp : p ≤ 1) :
    m.HeaderRead p Metadata.unwritten none where
  signature _ := by omega
  fields := by
    rcases Nat.le_one_iff_eq_zero_or_eq_one.mp hp with rfl | rfl <;> rfl
  palette _ := by omega
  noPalette _ := rfl
  masks _ := by omega
  noMasks _ := rfl
  header _ := by omega

theorem hostMove_readsBuffer (hc : s.Coherent) (hs : s.ReadsBuffer) (h : HostMove s t) : t.ReadsBuffer := by
  cases h with
  | present => exact ⟨hs.read, hs.begins, hs.inBounds⟩
  | reset =>
    exact ⟨.unwritten _ (p := 0) (by decide),
      ⟨fun hlo => absurd hlo (Nat.not_succ_le_zero 0), fun _ => rfl, fun _ => rfl⟩, Nat.zero_le _⟩
  | start cmd rest hin hop hidle =>
    have hreset := hc.idle hidle
    have hmd : s.md = Metadata.unwritten := by rw [hreset, resetRegisters_md]
    have hpal : s.pal = none := by rw [hreset, resetRegisters_pal]
    refine .of_running (c := 1) (.inl rfl) rfl ?_ ⟨fun _ _ => rfl, fun _ => hpal, fun h => absurd h (by decide)⟩
      (Nat.zero_le _)
    rw [startSession_md, startSession_pal, hmd, hpal]
    exact .unwritten _ le_rfl
  | answer => exact ⟨hs.read, hs.begins, hs.inBounds⟩

/-! ### Every step -/

theorem step_readsBuffer (hc : s.Coherent) (hs : s.ReadsBuffer) (h : step s = .next t) (hct : t.Coherent) :
    t.ReadsBuffer := by
  rcases running_or_atRest hc with hrun | hrest
  · obtain ⟨i, hdecode, hexec⟩ := step_running hc hrun h
    have hi := encode_of_decodePH hdecode
    by_cases hcode : s.phase.toNat ≤ 17
    · have hrange : 1 ≤ s.phase.toNat ∧ s.phase.toNat ≤ 17 := ⟨(range_of_running hc.status hrun).1, hcode⟩
      have hread := exec_header_readsBuffer hi ⟨rfl, hc.parsing_iff.mpr hrange, hrange, hs⟩
      rwa [hexec] at hread
    · exact exec_decoder_readsBuffer hc hrun hi (by omega) hs hexec hct
  · exact hostMove_readsBuffer hc hs (step_atRest hc.unit hrest h)

end Sys2Proof.Machine

namespace Sys2Proof.Statements
open Sys2Proof.Machine

/-- Settles O51: the control registers agree after every step (O50), and the rest is kept in closed form, each header
step adding the field it reads. -/
theorem stepsKeepMetadataTrueToTheBuffer : Obligations.StepsKeepMetadataTrueToTheBuffer := by
  intro s t hs hstep
  rw [parsed_iff] at hs ⊢
  obtain ⟨hc, hreads⟩ := hs
  have hct : t.Coherent := stepsKeepControlCoherent s t hc hstep
  exact ⟨hct, step_readsBuffer hc hreads hstep hct⟩

end Sys2Proof.Statements
end

section
/-! The decoder control steps (R191 to R199) in closed form: which check passes, where D_SEEK and D_ROWEND leave the
cursor, what D_ALLOC, D_ROWSTART and D_FINISH write. -/
namespace Sys2Proof.Machine
open Sys2Proof.Statements

variable {s : State}

theorem dataOffset_of_some {offset : U32} (h : s.md.dataOffset = some offset) : s.dataOffset = offset := by
  rw [State.dataOffset, h, Option.getD_some]

theorem width_of_some {w : U32} (h : s.md.width = some w) : s.width = w := by
  rw [State.width, h, Option.getD_some]

theorem height_of_some {h : U32} (hh : s.md.height = some h) : s.height = h := by
  rw [State.height, hh, Option.getD_some]

theorem compression_of_some {c : U32} (h : s.md.compression = some c) : s.compression = c := by
  rw [State.compression, h, Option.getD_some]

theorem row_of_some {y : U32} (h : s.y = some y) : s.row = y := by rw [State.row, h, Option.getD_some]

theorem column_of_some {x : U32} (h : s.x = some x) : s.column = x := by rw [State.column, h, Option.getD_some]

theorem eq_zero_iff_toNat {n : Nat} (v : BitVec n) : v = 0 ↔ v.toNat = 0 := by
  rw [BitVec.toNat_eq, BitVec.ofNat_eq_ofNat, BitVec.toNat_ofNat, Nat.zero_mod]

/-! ### D_CHKCOMP and D_CHKDEPTH (R191, R192) -/

theorem compressionSupported_iff (c : U32) : compressionSupported c = true ↔ c.toNat = 0 ∨ c.toNat = 3 := by
  simp only [compressionSupported, Bool.or_eq_true, beq_iff_eq, BitVec.toNat_eq]
  rfl

theorem stepChkcomp_ok (h : compressionSupported s.compression = true) :
    stepChkcomp s = .ok () { s with phase := Phase.dChkdepth } := if_pos h

theorem stepChkcomp_error (h : ¬ compressionSupported s.compression = true) :
    stepChkcomp s = .error ⟨.unsupportedCompression, s.compression.toNat⟩ s := if_neg h

theorem stepChkdepth_ok (h : (formatOfDepth s.bitsPerPixel).isSome = true) :
    stepChkdepth s = .ok () { s with phase := Phase.dSeek } := if_pos h

theorem stepChkdepth_error (h : ¬ (formatOfDepth s.bitsPerPixel).isSome = true) :
    stepChkdepth s = .error ⟨.unsupportedDepth, s.bitsPerPixel.toNat⟩ s := if_neg h

/-! ### D_SEEK (R193) -/

theorem stepSeek_ok (h : s.dataOffset.toNat ≤ s.buf.len) :
    stepSeek s = .ok () { s with pos := s.dataOffset.toNat, phase := Phase.dAlloc } :=
  op_bind_ok (f := fun _ => goto Phase.dAlloc) (seek_ok _ s h)

theorem stepSeek_error (h : s.buf.len < s.dataOffset.toNat) :
    stepSeek s = .error ⟨.outOfBounds, s.dataOffset.toNat⟩ s :=
  op_bind_error (f := fun _ => goto Phase.dAlloc) (seek_error _ s h)

/-! ### D_ALLOC (R194) -/

theorem allocOutput_noRows (h : s.height = 0) :
    allocOutput s = { s with out := some (PixelStore.alloc s.pixelCount), phase := Phase.dFinish } := if_pos h

theorem allocOutput_rows (h : ¬ s.height = 0) :
    allocOutput s = { s with out := some (PixelStore.alloc s.pixelCount), y := some (s.height - 1)
                             phase := Phase.dRowstart } := if_neg h

theorem execDAlloc_fits (h : outputFits s.pixelCount = true) : execDAlloc s = .next (allocOutput s) := if_pos h

theorem execDAlloc_refused (h : outputFits s.pixelCount = false) :
    execDAlloc s = .refused .outputCapacityExceeded := if_neg (by simp [h])

theorem execDAlloc_eq_refused_iff :
    execDAlloc s = .refused .outputCapacityExceeded ↔ outputFits s.pixelCount = false := by
  refine ⟨fun h => ?_, execDAlloc_refused⟩
  rw [← Bool.not_eq_true]
  intro hfits
  rw [execDAlloc_fits hfits] at h
  cases h

theorem sub_one_toNat {v : U32} (h : 0 < v.toNat) : (v - 1).toNat = v.toNat - 1 := by bv_omega

/-! ### D_ROWEND (R198) -/

/-- Fewer than 4 bytes that complete the row to a multiple of 4 are its padding. -/
theorem padBytes_eq {n pad : Nat} (hpad : pad < 4) (h : (n + pad) % 4 = 0) : padBytes n = pad := by
  unfold padBytes
  omega

/-- What follows the padding in D_ROWEND. -/
def leaveRow (s : State) : State :=
  if s.row = 0 then { s with phase := Phase.dFinish } else { s with y := some (s.row - 1), phase := Phase.dRowstart }

theorem leaveRow_lastRow (h : s.row = 0) : leaveRow s = { s with phase := Phase.dFinish } := if_pos h

theorem leaveRow_nextRow (h : ¬ s.row = 0) :
    leaveRow s = { s with y := some (s.row - 1), phase := Phase.dRowstart } := if_neg h

theorem stepRowend_ok (h : s.pos + padBytes s.rowBytes ≤ s.buf.len) :
    stepRowend s = .ok () (leaveRow { s with pos := s.pos + padBytes s.rowBytes, bitsRemaining := 0 }) :=
  op_bind_ok (f := fun _ => update (fun s => { s with bitsRemaining := 0 }) >>= fun _ => update leaveRow)
    ((skip_eq_seek _ s).trans (seek_ok _ s h))

theorem stepRowend_error (h : s.buf.len < s.pos + padBytes s.rowBytes) :
    stepRowend s = .error ⟨.outOfBounds, s.pos + padBytes s.rowBytes⟩ s :=
  op_bind_error (f := fun _ => update (fun s => { s with bitsRemaining := 0 }) >>= fun _ => update leaveRow)
    ((skip_eq_seek _ s).trans (seek_error _ s h))

/-! ### D_FINISH (R199) -/

theorem drawProf_isSome (n : Nat) : (drawProf n).isSome = Config.profPresent := by
  cases h : Config.profPresent <;> simp [drawProf, h]

/-! ### No step but D_SEEK moves the cursor back (R193) -/

theorem runStep_pos (code : BitVec 5) (op : Op Unit) (s : State) :
    (runStep code op s).pos = (endState op s).pos := by
  unfold runStep endState
  cases op s <;> rfl

/-- The cursor is not before where it is in `s`. -/
def State.NotBefore (s t : State) : Prop := s.pos ≤ t.pos

theorem runStep_notBefore {op : Op Unit} (hop : Consumes op) (code : BitVec 5) (s : State) :
    s.NotBefore (runStep code op s) := (hop.forward s).trans_eq (runStep_pos code op s).symm

theorem execDPixel_notBefore (s : State) : NextIn s.NotBefore (execDPixel s) := by
  unfold execDPixel
  cases formatOfDepth s.bitsPerPixel with
  | none => trivial
  | some f =>
    have h := pixelOp_movesForward f s
    unfold endState at h
    cases hr : pixelOp f s with
    | ok p s' =>
      rw [hr] at h
      simp only [hr]
      exact nextIn_of_eq_next fun t ht => h.trans_eq (storePixel_pos ht).symm
    | error r s' => rw [hr] at h; simp only [hr]; exact h

theorem exec_notBefore {i : Instr} {code : BitVec 5} (hi : encode i = some (.ph code)) (hseek : code ≠ Phase.dSeek)
    (s : State) : NextIn s.NotBefore (exec i s) := by
  cases i with
  | hSig => exact runStep_notBefore stepSig_consumes _ s
  | hReserved => exact runStep_notBefore stepReserved_consumes _ s
  | hFilesize | hDataoffset | hDibsize | hWidth | hHeight | hCompression | hDatasize | hResh | hResv =>
    exact runStep_notBefore (readField32_consumes _ _) _ s
  | hPlanes | hBpp => exact runStep_notBefore (readField16_consumes _ _) _ s
  | hColors => exact runStep_notBefore stepColors_consumes _ s
  | hImpcolors => exact runStep_notBefore stepImpcolors_consumes _ s
  | hPalette => exact runStep_notBefore stepPalette_consumes _ s
  | hMasks => exact runStep_notBefore stepMasks_consumes _ s
  | dChkcomp => exact runStep_notBefore stepChkcomp_consumes _ s
  | dChkdepth => exact runStep_notBefore stepChkdepth_consumes _ s
  | dSeek => cases hi; contradiction
  | dAlloc => exact nextIn_of_eq_next fun t h => by rw [execDAlloc_eq_next h]; exact (allocOutput_pos s).ge
  | dRowstart | dFinish => exact Nat.le_refl s.pos
  | dPixel => exact execDPixel_notBefore s
  | dRowend => exact runStep_notBefore stepRowend_consumes _ s
  | _ => simp [encode] at hi

end Sys2Proof.Machine

namespace Sys2Proof.Statements
open Sys2Proof.Machine

/-- Settles O22: each check is one test of the register, which leaves all but the phase. -/
theorem compressionAndDepthAreChecked : Obligations.CompressionAndDepthAreChecked := by
  refine ⟨rfl, rfl, fun s c hc => ?_, fun s bpp hbpp => ?_⟩
  · obtain rfl := compression_of_some hc
    have hiff := compressionSupported_iff s.compression
    refine ⟨fun h => congrArg Host.Outcome.next (runStep_ok _ (stepChkcomp_ok (hiff.mpr h))), fun h0 h3 => ?_⟩
    exact congrArg Host.Outcome.next (runStep_error _ (stepChkcomp_error fun h => (hiff.mp h).elim h0 h3))
  · obtain rfl := bitsPerPixel_of_some hbpp
    have hiff := formatOfDepth_isSome_iff s.bitsPerPixel
    exact ⟨fun h => congrArg Host.Outcome.next (runStep_ok _ (stepChkdepth_ok (hiff.mpr h))),
      fun h => congrArg Host.Outcome.next (runStep_error _ (stepChkdepth_error (mt hiff.mp h)))⟩

/-- Settles O23: D_SEEK is SEEK to the register's value; every other step is made of operations that move forward. -/
theorem seekStepGoesToTheDataOffset : Obligations.SeekStepGoesToTheDataOffset := by
  refine ⟨rfl, fun s offset hoffset => ?_, fun s t hunit hlo hhi hseek hstep => ?_⟩
  · obtain rfl := dataOffset_of_some hoffset
    exact ⟨fun h => congrArg Host.Outcome.next (runStep_ok _ (stepSeek_ok h)),
      fun h => congrArg Host.Outcome.next (runStep_error _ (stepSeek_error h))⟩
  · obtain ⟨i, hdecode⟩ := (decodePH_isOk_iff s.phase).mpr ⟨hlo, hhi⟩
    rw [step_of_fetch (fetch_phase hunit (atRest_of_decodePH hdecode)) hdecode] at hstep
    have h := exec_notBefore (encode_of_decodePH hdecode) hseek s
    rwa [hstep] at h

/-- Settles O24: the output is allocated whole, or the step is refused, by one test of the exact product. -/
theorem allocStepMakesTheOutput : Obligations.AllocStepMakesTheOutput := by
  refine ⟨rfl, fun s w h hw hh => ?_⟩
  obtain rfl := width_of_some hw
  obtain rfl := height_of_some hh
  refine ⟨fun hfits => ⟨PixelStore.alloc s.pixelCount, rfl, PixelStore.alloc_get _, fun hrows => ?_, fun hnone => ?_⟩,
    execDAlloc_eq_refused_iff⟩
  · have hne : ¬ s.height = 0 := mt (eq_zero_iff_toNat _).mp (by omega)
    exact ⟨s.height - 1, sub_one_toNat hrows,
      (execDAlloc_fits hfits).trans (congrArg Host.Outcome.next (allocOutput_rows hne))⟩
  · exact (execDAlloc_fits hfits).trans
      (congrArg Host.Outcome.next (allocOutput_noRows ((eq_zero_iff_toNat _).mpr hnone)))

/-- Settles O25: the row registers are written whatever the width, which chooses the next phase. -/
theorem rowStartResetsTheRow : Obligations.RowStartResetsTheRow := by
  refine ⟨rfl, fun s w hw => ?_⟩
  obtain rfl := width_of_some hw
  have hphase : (startRow s).phase = if 0 < s.width.toNat then 23 else 24 := by
    rw [startRow_phase, ← ite_not]
    exact if_congr ((not_congr (eq_zero_iff_toNat _)).trans Nat.pos_iff_ne_zero.symm) rfl rfl
  rw [← hphase]
  rfl

/-- Settles O28: SKIP of the padding, then the row counter decides. -/
theorem rowEndSkipsThePadding : Obligations.RowEndSkipsThePadding := by
  refine ⟨rfl, fun s y pad hy hpad hmod => ?_⟩
  obtain rfl := row_of_some hy
  obtain rfl := padBytes_eq hpad hmod
  refine ⟨fun hin hrow => ?_, fun hin hrow => ?_, fun hout => ?_⟩
  · have hne : ¬ s.row = 0 := mt (eq_zero_iff_toNat _).mp (by omega)
    exact ⟨s.row - 1, sub_one_toNat hrow, congrArg Host.Outcome.next
      ((runStep_ok _ (stepRowend_ok hin)).trans (leaveRow_nextRow hne))⟩
  · exact congrArg Host.Outcome.next
      ((runStep_ok _ (stepRowend_ok hin)).trans (leaveRow_lastRow ((eq_zero_iff_toNat _).mpr hrow)))
  · exact congrArg Host.Outcome.next (runStep_error _ (stepRowend_error hout))

/-- Settles O29: the constant `PROF` alone decides whether the record is present. -/
theorem finishEndsTheRun : Obligations.FinishEndsTheRun :=
  ⟨rfl, Config.profPresent, fun s => ⟨drawProf s.draws, s.draws + 1, drawProf_isSome _, rfl⟩⟩

end Sys2Proof.Statements
end

section
/-! The pixel operations in closed form (R220 to R228), and D_PIXEL as the selected one with one write (R197). -/
namespace Sys2Proof.Machine
open Sys2Proof.Statements

variable {s s' t : State}

/-! ### The pixel operations -/

theorem px32_ok (h : s.pos + 4 ≤ s.buf.len) :
    px32 s = .ok ⟨s.buf.byteAt (s.pos + 2), s.buf.byteAt (s.pos + 1), s.buf.byteAt s.pos, s.buf.byteAt (s.pos + 3)⟩
      { s with pos := s.pos + 4, rowBytes := s.rowBytes + 4 } := by
  rw [px32, op_bind_ok (rdu8_ok s (by omega)), op_bind_ok (rdu8_ok _ (by dsimp only; omega)),
    op_bind_ok (rdu8_ok _ (by dsimp only; omega)), op_bind_ok (rdu8_ok _ (by dsimp only; omega))]
  rfl

theorem px24_ok (h : s.pos + 3 ≤ s.buf.len) :
    px24 s = .ok ⟨s.buf.byteAt (s.pos + 2), s.buf.byteAt (s.pos + 1), s.buf.byteAt s.pos, 255⟩
      { s with pos := s.pos + 3, rowBytes := s.rowBytes + 3 } := by
  rw [px24, op_bind_ok (rdu8_ok s (by omega)), op_bind_ok (rdu8_ok _ (by dsimp only; omega)),
    op_bind_ok (rdu8_ok _ (by dsimp only; omega))]
  rfl

theorem px16_ok (h : s.pos + 2 ≤ s.buf.len) :
    px16 s = .ok (pixel16 (s.buf.u16At s.pos) s.maskR s.maskG s.maskB)
      { s with pos := s.pos + 2, rowBytes := s.rowBytes + 2 } := by
  rw [px16, op_bind_ok (rdu16_ok s h)]
  rfl

/-- PX8 up to its lookup. -/
theorem px8_eq_lookup (h : s.pos + 1 ≤ s.buf.len) :
    px8 s = lookup (s.buf.byteAt s.pos).toNat { s with pos := s.pos + 1, rowBytes := s.rowBytes + 1 } := by
  rw [px8, op_bind_ok (rdu8_ok s h)]
  rfl

/-- The pixel format of a sub-byte depth. -/
def subFormat : SubDepth → PixelFormat
  | .d1 => .p1
  | .d2 => .p2
  | .d4 => .p4

theorem pixelOp_subFormat (d : SubDepth) : pixelOp (subFormat d) = unpack d >>= lookup := by cases d <;> rfl

theorem formatOfDepth_subBits (d : SubDepth) : formatOfDepth (BitVec.ofNat 16 (subBits d)) = some (subFormat d) := by
  cases d <;> rfl

theorem formatBits_subFormat (d : SubDepth) : formatBits (subFormat d) = subBits d := by cases d <;> rfl

theorem subIndex_eq_mod (b : Byte) (n bpp : Nat) : subIndex b n bpp = (b.toNat >>> (n - bpp)) % 2 ^ bpp := by
  rw [subIndex, Nat.one_shiftLeft, Nat.and_two_pow_sub_one_eq_mod]

/-- Of a whole byte the top bits are what a shift leaves. -/
theorem subIndex_byte (b : Byte) (d : SubDepth) : subIndex b 8 (subBits d) = b.toNat >>> (8 - subBits d) := by
  rw [subIndex_eq_mod, Nat.mod_eq_of_lt]
  have hb := b.isLt
  rw [Nat.shiftRight_eq_div_pow]
  cases d <;> simp only [subBits] <;> omega

theorem palEntry_of_get {pal : PixelStore} {i : Nat} {p : Rgba8} (hpal : s.pal = some pal) (h : pal.get i = some p) :
    s.palEntry i = p := by
  rw [State.palEntry, hpal, Option.bind_some, h, Option.getD_some]

/-! ### D_PIXEL -/

/-- The registers that D_PIXEL's write uses: `out` has an entry at `y*width + x`. -/
structure State.AtEntry (s : State) (w x y : U32) (st : PixelStore) : Prop where
  width  : s.md.width = some w
  column : s.x = some x
  row    : s.y = some y
  out    : s.out = some st
  fits   : y.toNat * w.toNat + x.toNat < st.size

/-- The write of D_PIXEL (R197). -/
def State.putPixel (t : State) (w x y : U32) (st : PixelStore) (p : Rgba8) : State :=
  { t with
    out := some (st.set (y.toNat * w.toNat + x.toNat) p)
    x := some (x + 1)
    phase := if x.toNat + 1 < w.toNat then Phase.dPixel else Phase.dRowend }

variable {w x y : U32} {st : PixelStore} {f : PixelFormat} {p : Rgba8}

theorem State.AtEntry.congr (h : s.AtEntry w x y st) (hframe : s'.frame = s.frame) : s'.AtEntry w x y st where
  width := (congrArg (fun t => t.md.width) hframe).trans h.width
  column := (congrArg State.x hframe).trans h.column
  row := (congrArg State.y hframe).trans h.row
  out := (congrArg State.out hframe).trans h.out
  fits := h.fits

theorem storePixel_atEntry (h : s.AtEntry w x y st) (p : Rgba8) : storePixel p s = .next (s.putPixel w x y st p) := by
  have hindex : s.outIndex = y.toNat * w.toNat + x.toNat := by
    rw [State.outIndex, row_of_some h.row, width_of_some h.width, column_of_some h.column]
  simp only [storePixel, h.out, hindex, if_pos h.fits, column_of_some h.column, width_of_some h.width, State.putPixel]

theorem pixelOp_frame_of_ok (h : pixelOp f s = .ok p s') : s'.frame = s.frame := by
  have hframe := pixelOp_keepsFrame f s
  rwa [endState, h] at hframe

theorem pixelOp_frame_of_error {r : Raise} (h : pixelOp f s = .error r s') : s'.frame = s.frame := by
  have hframe := pixelOp_keepsFrame f s
  rwa [endState, h] at hframe

/-- The pixel operation ends well: its pixel is written in the state it leaves. -/
theorem execDPixel_ok (hf : formatOfDepth s.bitsPerPixel = some f) (h : s.AtEntry w x y st)
    (hop : pixelOp f s = .ok p s') : execDPixel s = .next (s'.putPixel w x y st p) := by
  simp only [execDPixel, hf, hop]
  exact storePixel_atEntry (h.congr (pixelOp_frame_of_ok hop)) p

/-- The pixel operation faults: so does D_PIXEL. -/
theorem execDPixel_error {r : Raise} (hf : formatOfDepth s.bitsPerPixel = some f) (hop : pixelOp f s = .error r s') :
    execDPixel s = .next (takeFault r Phase.dPixel s') := by
  simp only [execDPixel, hf, hop]

/-! ### The pixel operation run by itself -/

theorem exec_pixelInstr (f : PixelFormat) (s : State) :
    exec (pixelInstr f) s = .next (runUnit (returnPixel (pixelOp f)) s) := by cases f <;> rfl

/-- A pixel operation run by itself has returned its pixel, or has faulted. -/
theorem exec_pixelInstr_eq_next (h : exec (pixelInstr f) s = .next t) :
    (∃ p s', pixelOp f s = .ok p s' ∧ t = { s' with opResult := some (.pixel p) }) ∨
      ∃ r s', pixelOp f s = .error r s' ∧ t = takeFault r s.phase s' := by
  rw [exec_pixelInstr] at h
  cases h
  cases hr : pixelOp f s with
  | ok p s' => exact .inl ⟨p, s', rfl, runUnit_ok (op_bind_ok (f := fun p => pure (Result.pixel p)) hr)⟩
  | error r s' => exact .inr ⟨r, s', rfl, runUnit_error (op_bind_error (f := fun p => pure (Result.pixel p)) hr)⟩

end Sys2Proof.Machine

namespace Sys2Proof.Statements
open Sys2Proof.Machine

/-- Settles O26: run by itself or in D_PIXEL it is the same operation, and its frame shows the registers that the write
uses unchanged. -/
theorem pixelStepRunsTheSelectedOperation : Obligations.PixelStepRunsTheSelectedOperation := by
  refine ⟨rfl, fun s t f bpp w x y st hstatus hphase hbpp hf hw hx hy hout hfits hxw hexec => ?_⟩
  obtain rfl := bitsPerPixel_of_some hbpp
  have hentry : s.AtEntry w x y st := ⟨hw, hx, hy, hout, hfits⟩
  obtain ⟨p', s', hop, rfl⟩ | ⟨r, s', hop, rfl⟩ := exec_pixelInstr_eq_next hexec
  · have hframe := pixelOp_frame_of_ok hop
    refine ⟨fun p _ hp => ?_, fun hfailed => ?_⟩
    · obtain rfl : p' = p := by simpa using hp
      have hresult : s.opResult = s'.opResult := (congrArg State.opResult hframe).symm
      refine ⟨st.set (y.toNat * w.toNat + x.toNat) p', x + 1, ?_, by bv_omega, PixelStore.set_size .., fun i => ?_⟩
      · rw [hresult]
        exact execDPixel_ok hf hentry hop
      · split
        next hi => rw [hi, PixelStore.get_set_same _ _ _ hfits]
        next hi => rw [PixelStore.get_set_other _ _ _ _ hi]
    · have hsame : s'.frame.status = s.frame.status := congrArg State.status hframe
      have hdecoding : s'.status = .decoding := hsame.trans hstatus
      exact nomatch hdecoding.symm.trans hfailed
  · refine ⟨fun _ hdecoding => (nomatch hdecoding), fun _ => ⟨?_, ?_⟩⟩
    · rw [hphase]
      exact execDPixel_error hf hop
    · exact (hentry.congr (pixelOp_frame_of_error hop)).out

/-- Settles O27: each operation's closed form, then the write. -/
theorem pixelStepCompletes : Obligations.PixelStepCompletes := by
  intro s w x y st hw hx hy hout hfits
  have hentry : s.AtEntry w x y st := ⟨hw, hx, hy, hout, hfits⟩
  have hformat {bpp : U16} {f : PixelFormat} (hbpp : s.md.bitsPerPixel = some bpp) (hf : formatOfDepth bpp = some f) :
      formatOfDepth s.bitsPerPixel = some f := (bitsPerPixel_of_some hbpp).symm ▸ hf
  refine ⟨fun hbpp hlen => execDPixel_ok (hformat hbpp rfl) hentry (f := .p32) (px32_ok hlen),
    fun hbpp hlen => execDPixel_ok (hformat hbpp rfl) hentry (f := .p24) (px24_ok hlen),
    fun hbpp hlen => ⟨_, _, _, execDPixel_ok (hformat hbpp rfl) hentry (f := .p16) (px16_ok hlen)⟩,
    fun colors pal p hcolors hpal => ?_⟩
  obtain rfl := colorsCount_of_some hcolors
  refine ⟨fun hbpp hlen hindex hget => ?_, fun d left hbpp => ?_⟩
  · refine execDPixel_ok (hformat hbpp rfl) hentry (f := .p8) ((px8_eq_lookup hlen).trans ?_)
    rw [← palEntry_of_get hpal hget]
    exact lookup_ok _ _ hindex
  · have hf := hformat hbpp (formatOfDepth_subBits d)
    refine ⟨fun hnone hlen hindex hget hleft => ?_, fun hbits hindex hget hleft => ?_⟩
    · obtain rfl : left = ⟨8 - subBits d, Nat.lt_succ_of_le (Nat.sub_le _ _)⟩ := Fin.ext hleft
      refine execDPixel_ok hf hentry ?_
      rw [pixelOp_subFormat, op_bind_ok (unpack_fetch d s hnone hlen), subIndex_byte, ← palEntry_of_get hpal hget]
      exact lookup_ok _ _ hindex
    · obtain rfl : left = ⟨s.bitsRemaining.val - subBits d, (Nat.sub_le _ _).trans_lt s.bitsRemaining.isLt⟩ :=
        Fin.ext hleft
      refine execDPixel_ok hf hentry ?_
      rw [pixelOp_subFormat, op_bind_ok (unpack_have d s hbits), subIndex_eq_mod, ← palEntry_of_get hpal hget]
      exact lookup_ok _ _ hindex

end Sys2Proof.Statements
end

section
/-! A pixel of the pixel array (R99, R100, R201): in column `x` of a source row, with the row registers where R200 and
R220 say, the pixel operation gives the pixel that the array holds there and moves the row registers to column `x + 1`;
or a byte is missing, or the index is none of the palette. -/
namespace Sys2Proof.Machine
open Sys2Proof.Statements

/-! ### Row geometry -/

@[simp] theorem rowLength_zero (bpp : Nat) : rowLength 0 bpp = 0 := by simp [rowLength]

theorem rowLength_mono {a b : Nat} (h : a ≤ b) (bpp : Nat) : rowLength a bpp ≤ rowLength b bpp :=
  Nat.div_le_div_right (Nat.add_le_add_right (Nat.mul_le_mul_right bpp h) 7)

/-- Pixels of whole bytes. -/
theorem rowLength_bytes (columns n : Nat) : rowLength columns (8 * n) = n * columns := by
  rw [rowLength, Nat.mul_left_comm, Nat.mul_comm columns n]
  omega

variable {m : Memory} {f : PixelFormat} {y x : Nat}

/-- The source row of output row `y` ends where `height - y` rows do. -/
theorem Memory.rowStart_add_stride (hy : y < m.height) :
    m.rowStart f y + stride m.width (formatBits f) =
      (m.u32At 10).toNat + (m.height - y) * stride m.width (formatBits f) := by
  have hrows : m.height - y = m.height - 1 - y + 1 := by omega
  rw [Memory.rowStart, hrows, Nat.add_one_mul, Nat.add_assoc]

/-- The next row up begins where this one ends (R100). -/
theorem Memory.rowStart_pred (h0 : 0 < y) (hy : y < m.height) :
    m.rowStart f (y - 1) = m.rowStart f y + stride m.width (formatBits f) := by
  have hrows : m.height - 1 - (y - 1) = m.height - y := by omega
  rw [rowStart_add_stride hy, Memory.rowStart, hrows]

/-- Output row 0 is the last of the array. -/
theorem Memory.rowStart_zero (hy : 0 < m.height) :
    m.rowStart f 0 + stride m.width (formatBits f) = m.pixelsEnd f := by
  rw [rowStart_add_stride hy, Memory.pixelsEnd, Nat.sub_zero]

/-- Every row lies in the pixel array. -/
theorem Memory.rowEnd_le_pixelsEnd (hy : y < m.height) :
    m.rowStart f y + stride m.width (formatBits f) ≤ m.pixelsEnd f := by
  rw [rowStart_add_stride hy, Memory.pixelsEnd]
  exact Nat.add_le_add_left (Nat.mul_le_mul_right _ (Nat.sub_le _ _)) _

/-- Every pixel lies in the pixel array. -/
theorem Memory.pixelEnd_le_pixelsEnd (hy : y < m.height) (hx : x < m.width) :
    m.rowStart f y + rowLength (x + 1) (formatBits f) ≤ m.pixelsEnd f := by
  have hrow := rowEnd_le_pixelsEnd (f := f) hy
  have hpixel : rowLength (x + 1) (formatBits f) ≤ _ := rowLength_mono hx (formatBits f)
  rw [stride] at hrow
  omega

/-! ### How a pixel operation can end -/

/-- The faults of the pixel operation in column `x` of row `y`: one of its bytes is missing, or its index is not in the
palette (R229). -/
inductive PixelFault (m : Memory) (f : PixelFormat) (y x : Nat) (r : Raise) : Prop
  | short (hkind : r.kind = .outOfBounds) (hlen : m.len < m.rowStart f y + rowLength (x + 1) (formatBits f))
  | index (i : Nat) (hkind : r.kind = .paletteIndexRange) (hindex : m.indexAt f (m.rowStart f y) x = some i)
      (hcolors : m.colors.toNat ≤ i)

/-- The operation gives the pixel of the array and moves to the next column, or takes one of the faults. -/
def PixelEnds (m : Memory) (f : PixelFormat) (y x : Nat) : EStateM.Result Raise State Rgba8 → Prop
  | .ok p t => p = m.pixelAt f (m.rowStart f y) x ∧ t.InRow f y (x + 1)
  | .error r _ => PixelFault m f y x r

variable {s : State}

/-! ### Formats of whole bytes -/

theorem State.InRow.pos_bytes {n : Nat} (h : s.InRow f y x) (hbits : formatBits f = 8 * n) :
    s.pos = s.buf.rowStart f y + n * x := by rw [h.pos, hbits, rowLength_bytes]

/-- `n` bytes on is the next column. -/
theorem State.InRow.next_bytes {n : Nat} (h : s.InRow f y x) (hbits : formatBits f = 8 * n) :
    { s with pos := s.pos + n, rowBytes := s.rowBytes + n }.InRow f y (x + 1) := by
  have hnext : rowLength (x + 1) (formatBits f) = rowLength x (formatBits f) + n := by
    rw [hbits, rowLength_bytes, rowLength_bytes, Nat.mul_add_one]
  have hnone : ∀ columns, columns * formatBits f % 8 = 0 := fun columns => by
    rw [hbits, Nat.mul_left_comm, Nat.mul_mod_right]
  have hremaining : s.bitsRemaining.val = 0 := by rw [h.remaining, hnone]
  exact
    { pos := by rw [hnext, ← Nat.add_assoc, ← h.pos]
      rowBytes := by rw [hnext, ← h.rowBytes]
      remaining := by rw [hnone, hremaining]
      current := fun hne => absurd hremaining hne }

/-- A pixel of `n` bytes that the buffer does not hold is not in the buffer's pixel array. -/
theorem State.InRow.short {n : Nat} (h : s.InRow f y x) (hbits : formatBits f = 8 * n) (hlen : s.buf.len < s.pos + n)
    {r : Raise} (hkind : r.kind = .outOfBounds) : PixelFault s.buf f y x r := by
  refine .short hkind ?_
  rw [hbits, rowLength_bytes, Nat.mul_add_one]
  rw [h.pos_bytes hbits] at hlen
  omega

theorem px24_short (hpos : s.pos ≤ s.buf.len) (h : s.buf.len < s.pos + 3) : FailsAtEnd px24 s :=
  .rdu8_bind hpos fun h1 => .rdu8_bind h1 fun h2 => .rdu8_bind h2 fun h3 => absurd h (Nat.not_lt.mpr h3)

theorem px32_short (hpos : s.pos ≤ s.buf.len) (h : s.buf.len < s.pos + 4) : FailsAtEnd px32 s :=
  .rdu8_bind hpos fun h1 => .rdu8_bind h1 fun h2 => .rdu8_bind h2 fun h3 => .rdu8_bind h3 fun h4 =>
    absurd h (Nat.not_lt.mpr h4)

theorem px24_ends (h : s.InRow .p24 y x) (hin : s.pos ≤ s.buf.len) : PixelEnds s.buf .p24 y x (px24 s) := by
  by_cases hlen : s.pos + 3 ≤ s.buf.len
  · rw [px24_ok hlen]
    refine ⟨?_, h.next_bytes rfl⟩
    rw [h.pos_bytes (n := 3) rfl]
    rfl
  · have hshort := Nat.lt_of_not_le hlen
    rw [px24_short hin hshort]
    exact h.short rfl hshort rfl

theorem px32_ends (h : s.InRow .p32 y x) (hin : s.pos ≤ s.buf.len) : PixelEnds s.buf .p32 y x (px32 s) := by
  by_cases hlen : s.pos + 4 ≤ s.buf.len
  · rw [px32_ok hlen]
    refine ⟨?_, h.next_bytes rfl⟩
    rw [h.pos_bytes (n := 4) rfl]
    rfl
  · have hshort := Nat.lt_of_not_le hlen
    rw [px32_short hin hshort]
    exact h.short rfl hshort rfl

/-- The masks are those of the buffer (R93, R169). -/
def State.MasksLoaded (s : State) : Prop :=
  s.maskR = s.buf.u32At 54 ∧ s.maskG = s.buf.u32At 58 ∧ s.maskB = s.buf.u32At 62

theorem px16_ends (h : s.InRow .p16 y x) (hmasks : s.MasksLoaded) : PixelEnds s.buf .p16 y x (px16 s) := by
  by_cases hlen : s.pos + 2 ≤ s.buf.len
  · rw [px16_ok hlen]
    obtain ⟨hr, hg, hb⟩ := hmasks
    refine ⟨?_, h.next_bytes rfl⟩
    rw [h.pos_bytes (n := 2) rfl, hr, hg, hb]
    rfl
  · have hshort := Nat.lt_of_not_le hlen
    rw [px16, op_bind_error (rdu16_error s hshort)]
    exact h.short rfl hshort rfl

/-! ### Formats with a palette -/

/-- The palette is that of the buffer (R173). -/
def State.PaletteLoaded (s : State) : Prop :=
  s.colorsCount = s.buf.colors ∧ ∀ i, i < s.buf.colors.toNat → s.palEntry i = s.buf.paletteColor i

theorem paletteLoaded_sees_frame : Sees State.frame State.PaletteLoaded := fun _ => Iff.rfl

theorem lookup_of_lt (h : s.PaletteLoaded) {i : Nat} (hi : i < s.buf.colors.toNat) :
    lookup i s = .ok (s.buf.paletteColor i) s := by
  rw [lookup_ok i s (h.1 ▸ hi), h.2 i hi]

theorem lookup_of_ge (h : s.PaletteLoaded) {i : Nat} (hi : s.buf.colors.toNat ≤ i) :
    lookup i s = .error ⟨.paletteIndexRange, i⟩ s := lookup_error i s (h.1 ▸ hi)

/-- The lookup of the pixel's index, the row registers being those of the next column. -/
theorem lookup_ends {i : Nat} (hpalette : s.PaletteLoaded) (hnext : s.InRow f y (x + 1))
    (hindex : s.buf.indexAt f (s.buf.rowStart f y) x = some i)
    (hpixel : s.buf.pixelAt f (s.buf.rowStart f y) x = s.buf.paletteColor i) :
    PixelEnds s.buf f y x (lookup i s) := by
  by_cases hi : i < s.buf.colors.toNat
  · rw [lookup_of_lt hpalette hi]
    exact ⟨hpixel.symm, hnext⟩
  · have hge := Nat.le_of_not_lt hi
    rw [lookup_of_ge hpalette hge]
    exact .index i rfl hindex hge

theorem px8_ends (h : s.InRow .p8 y x) (hpalette : s.PaletteLoaded) : PixelEnds s.buf .p8 y x (px8 s) := by
  by_cases hlen : s.pos + 1 ≤ s.buf.len
  · have hpos := h.pos_bytes (n := 1) rfl
    rw [Nat.one_mul] at hpos
    rw [px8_eq_lookup hlen, hpos]
    exact lookup_ends (s := { s with pos := _, rowBytes := _ }) hpalette (hpos ▸ h.next_bytes (n := 1) rfl) rfl rfl
  · have hshort := Nat.lt_of_not_le hlen
    rw [px8, op_bind_error (rdu8_error s hshort)]
    exact h.short (n := 1) rfl hshort rfl

/-! ### Packed formats (R94, R220) -/

theorem subIndex_eq_packedIndex {b : Byte} {a n : Nat} {d : SubDepth} (hb : b = m.byteAt (a + x * subBits d / 8))
    (hn : n = 8 - x * subBits d % 8) : subIndex b n (subBits d) = m.packedIndex (subBits d) a x := by
  have hshift : 8 - x * subBits d % 8 - subBits d = 8 - subBits d - x * subBits d % 8 := by omega
  rw [subIndex, Memory.packedIndex, hb, hn, hshift, Nat.one_shiftLeft]

/-- A byte holds whole pixels: what a column leaves of it is enough for one more, or nothing. -/
theorem packed_column (d : SubDepth) (x : Nat) :
    (x + 1) * subBits d = x * subBits d + subBits d ∧ 0 < subBits d ∧ subBits d ≤ 8 ∧
      x * subBits d % 8 + subBits d ≤ 8 := by
  cases d <;> simp only [subBits] <;> omega

/-- With no bits left the column begins a byte, the one at the cursor (R220). -/
theorem State.InRow.byteBoundary {d : SubDepth} (h : s.InRow (subFormat d) y x) (h0 : s.bitsRemaining = 0) :
    x * subBits d % 8 = 0 ∧ rowLength x (subBits d) = x * subBits d / 8 := by
  have hremaining := h.remaining
  rw [formatBits_subFormat, h0] at hremaining
  simp only [Fin.val_zero] at hremaining
  rw [rowLength]
  omega

/-- The byte of a column that begins one is the last of the next column's. -/
theorem rowLength_succ_of_byteBoundary {d : SubDepth} (hwhole : x * subBits d % 8 = 0) :
    rowLength (x + 1) (subBits d) = x * subBits d / 8 + 1 := by
  obtain ⟨hnext, hbits, hle, -⟩ := packed_column d x
  rw [rowLength, hnext]
  omega

/-- UNPACK gives the index that the array holds in column `x` of row `y`, and moves the row registers to the next
column. -/
def UnpacksPixel (s : State) (d : SubDepth) (y x : Nat) : Prop :=
  ∃ t, unpack d s = .ok (s.buf.packedIndex (subBits d) (s.buf.rowStart (subFormat d) y) x) t ∧
    t.frame = s.frame ∧ t.InRow (subFormat d) y (x + 1)

/-- Between two bytes: the next one is fetched. -/
theorem unpack_fetch_inRow {d : SubDepth} (h : s.InRow (subFormat d) y x) (h0 : s.bitsRemaining = 0)
    (hlen : s.pos + 1 ≤ s.buf.len) : UnpacksPixel s d y x := by
  obtain ⟨hwhole, hend⟩ := h.byteBoundary h0
  have hnextEnd := rowLength_succ_of_byteBoundary hwhole
  obtain ⟨hpos, hrowBytes, -, -⟩ := h
  obtain ⟨hnext, hbits, hle, hroom⟩ := packed_column d x
  rw [formatBits_subFormat, hend] at hpos hrowBytes
  have hop := unpack_fetch d s h0 hlen
  rw [subIndex_eq_packedIndex (congrArg s.buf.byteAt hpos) (by omega)] at hop
  refine ⟨_, hop, rfl, ?_⟩
  constructor <;> rw [formatBits_subFormat]
  · rw [hnextEnd, ← Nat.add_assoc, ← hpos]
  · rw [hnextEnd, ← hrowBytes]
  · dsimp only
    omega
  · intro hne
    dsimp only at hne ⊢
    rw [hpos, hnext]
    congr 2
    omega

/-- Within a byte: the pixel is in the byte fetched before. -/
theorem unpack_have_inRow {d : SubDepth} (h : s.InRow (subFormat d) y x) (h0 : ¬ s.bitsRemaining = 0) :
    UnpacksPixel s d y x := by
  obtain ⟨hpos, hrowBytes, hremaining, hcurrent⟩ := h
  obtain ⟨hnext, hbits, hle, hroom⟩ := packed_column d x
  rw [formatBits_subFormat] at hpos hrowBytes hremaining hcurrent
  have hne : s.bitsRemaining.val ≠ 0 := fun h => h0 (Fin.ext h)
  have hleft : s.bitsRemaining.val = 8 - x * subBits d % 8 := by omega
  have hsame : rowLength (x + 1) (subBits d) = rowLength x (subBits d) := by
    rw [rowLength, rowLength, hnext]
    omega
  have hop := unpack_have d s (by omega)
  rw [subIndex_eq_packedIndex (hcurrent hne) hleft] at hop
  refine ⟨_, hop, rfl, ?_⟩
  constructor <;> rw [formatBits_subFormat]
  · rw [hsame, hpos]
  · rw [hsame, hrowBytes]
  · dsimp only
    omega
  · intro hrest
    dsimp only at hrest ⊢
    rw [hcurrent hne, hnext]
    congr 2
    omega

/-- The byte to be fetched is missing. -/
theorem State.InRow.packed_short {d : SubDepth} (h : s.InRow (subFormat d) y x) (h0 : s.bitsRemaining = 0)
    (hshort : s.buf.len < s.pos + 1) {r : Raise} (hkind : r.kind = .outOfBounds) :
    PixelFault s.buf (subFormat d) y x r := by
  obtain ⟨hwhole, hend⟩ := h.byteBoundary h0
  rw [h.pos, formatBits_subFormat, hend] at hshort
  refine .short hkind ?_
  rw [formatBits_subFormat, rowLength_succ_of_byteBoundary hwhole]
  exact hshort

theorem packed_ends {d : SubDepth} (h : s.InRow (subFormat d) y x) (hpalette : s.PaletteLoaded) :
    PixelEnds s.buf (subFormat d) y x (pixelOp (subFormat d) s) := by
  rw [pixelOp_subFormat]
  have hlookup (hunpack : UnpacksPixel s d y x) : PixelEnds s.buf (subFormat d) y x
      ((unpack d >>= lookup) s) := by
    obtain ⟨t, hop, hframe, hnext⟩ := hunpack
    have hbuf : t.frame.buf = s.frame.buf := congrArg State.buf hframe
    have hbuf' : t.buf = s.buf := hbuf
    rw [op_bind_ok hop, ← hbuf']
    refine lookup_ends (paletteLoaded_sees_frame.congr hframe hpalette) hnext ?_ ?_ <;> cases d <;> rfl
  by_cases h0 : s.bitsRemaining = 0
  · by_cases hlen : s.pos + 1 ≤ s.buf.len
    · exact hlookup (unpack_fetch_inRow h h0 hlen)
    · have hshort := Nat.lt_of_not_le hlen
      rw [op_bind_error (unpack_error d s h0 hshort)]
      exact h.packed_short h0 hshort rfl
  · exact hlookup (unpack_have_inRow h h0)

/-! ### Every format -/

/-- What the pixel operation of format `f` uses beside the row registers: the palette up to 8 bpp, the masks at 16. -/
structure State.PixelReady (s : State) (f : PixelFormat) : Prop where
  palette  : formatBits f ≤ 8 → s.PaletteLoaded
  masks    : formatBits f = 16 → s.MasksLoaded
  inBounds : s.pos ≤ s.buf.len

/-- Each pixel operation gives the pixel that the array holds in this column, or faults (R201, R229). -/
theorem pixelOp_ends (hready : s.PixelReady f) (h : s.InRow f y x) : PixelEnds s.buf f y x (pixelOp f s) := by
  cases f with
  | p1 => exact packed_ends (d := .d1) h (hready.palette (by decide))
  | p2 => exact packed_ends (d := .d2) h (hready.palette (by decide))
  | p4 => exact packed_ends (d := .d4) h (hready.palette (by decide))
  | p8 => exact px8_ends h (hready.palette (by decide))
  | p16 => exact px16_ends h (hready.masks rfl)
  | p24 => exact px24_ends h hready.inBounds
  | p32 => exact px32_ends h hready.inBounds

end Sys2Proof.Machine
end

section
/-! The decode as a function of the buffer (R190 to R201): `State.Decoded` said over again apart from the parse, as the
checks passed and one place for each phase, and that place kept by every step. -/
namespace Sys2Proof.Machine
open Sys2Proof.Statements

variable {s t : State} {m : Memory} {f : PixelFormat} {code : BitVec 5} {p q : Nat} {out : Option PixelStore}

/-! ### The places of the decode -/

/-- What has been checked once the steps with codes below `p` are passed, and that there is no output before D_ALLOC is
(R191, R192, R194). -/
structure Memory.ChecksPassed (m : Memory) (p : Nat) (out : Option PixelStore) : Prop where
  passed   : 18 < p → compressionSupported (m.u32At 30) = true
  selected : 19 < p → (formatOfDepth m.depth).isSome = true
  noOutput : p ≤ 21 → out = none

/-- D_ROWSTART is at output row `y`, at the first byte of its source row (R195). -/
structure State.AtRow (s : State) (f : PixelFormat) (y : U32) : Prop where
  row     : s.y = some y
  rowLt   : y.toNat < s.buf.height
  pos     : s.pos = s.buf.rowStart f y.toNat
  written : s.Written f y.toNat 0

/-- The decode is at column `x` of output row `y` (R195, R200). -/
structure State.AtColumn (s : State) (f : PixelFormat) (y x : U32) : Prop where
  row     : s.y = some y
  column  : s.x = some x
  rowLt   : y.toNat < s.buf.height
  inRow   : s.InRow f y.toNat x.toNat
  written : s.Written f y.toNat x.toNat

/-- All rows are read and written (R201). -/
structure State.ImageComplete (s : State) (f : PixelFormat) : Prop where
  pos     : s.pos = s.buf.pixelsEnd f
  written : s.Written f 0 s.buf.width

/-- Where the decode is as the phase with this code begins. -/
def State.Place (s : State) (f : PixelFormat) : Nat → Prop
  | 21 => s.pos = (s.buf.u32At 10).toNat
  | 22 => ∃ y, s.AtRow f y
  | 23 => ∃ y x, s.AtColumn f y x ∧ x.toNat < s.buf.width
  | 24 => ∃ y x, s.AtColumn f y x ∧ x.toNat = s.buf.width
  | 25 | 30 => s.ImageComplete f
  | _ => True

/-- What `State.Decoded` says beside the parse. -/
structure State.DecodesBuffer (s : State) : Prop where
  checks : s.buf.ChecksPassed s.progress s.out
  place  : ∀ f, formatOfDepth s.buf.depth = some f → s.Place f s.phase.toNat

theorem State.Place.of_le (h : p ≤ 20) : s.Place f p := by
  unfold State.Place
  split
  case h_7 => trivial
  all_goals omega

theorem State.Decoded.place (h : s.Decoded) (hf : formatOfDepth s.buf.depth = some f) :
    s.Place f s.phase.toNat := by
  have hphase {c : BitVec 5} (hc : s.phase.toNat = c.toNat) : s.phase = c := BitVec.eq_of_toNat_eq hc
  unfold State.Place
  split
  next hc => exact h.sought (hphase hc)
  next hc =>
    obtain ⟨y, h₁, h₂, h₃, h₄⟩ := h.rowStart f hf (hphase hc)
    exact ⟨y, h₁, h₂, h₃, h₄⟩
  next hc =>
    obtain ⟨y, x, h₁, h₂, h₃, h₄, h₅, h₆⟩ := h.pixel f hf (hphase hc)
    exact ⟨y, x, ⟨h₁, h₂, h₃, h₅, h₆⟩, h₄⟩
  next hc =>
    obtain ⟨y, x, h₁, h₂, h₃, h₄, h₅, h₆⟩ := h.rowEnd f hf (hphase hc)
    exact ⟨y, x, ⟨h₁, h₂, h₃, h₅, h₆⟩, h₄⟩
  next hc =>
    obtain ⟨hpos, hwritten⟩ := h.finished f hf (.inl (hphase hc))
    exact ⟨hpos, hwritten⟩
  next hc =>
    obtain ⟨hpos, hwritten⟩ := h.finished f hf (.inr (hphase hc))
    exact ⟨hpos, hwritten⟩
  next => trivial

theorem State.Decoded.decodesBuffer (h : s.Decoded) : s.DecodesBuffer where
  checks := ⟨h.passed, h.selected, h.noOutput⟩
  place _ hf := h.place hf

/-- In D_ALLOC a depth has been selected, so the place there holds without one being named. -/
theorem State.DecodesBuffer.sought (h : s.DecodesBuffer) (hc : s.Coherent) (hphase : s.phase = Phase.dAlloc) :
    s.pos = (s.buf.u32At 10).toNat := by
  have hstatus : s.status = .decoding := by
    have hst := hc.status
    rw [hphase] at hst
    exact (Option.some.inj hst).symm
  have hprogress : s.progress = 21 := by
    rw [progress_of_running (.inr hstatus), hphase]
    rfl
  obtain ⟨f, hf⟩ := Option.isSome_iff_exists.mp (h.checks.selected (by omega))
  have hplace := h.place f hf
  rw [hphase] at hplace
  exact hplace

theorem State.DecodesBuffer.decoded (h : s.DecodesBuffer) (hparsed : s.Parsed) : s.Decoded where
  parsed := hparsed
  passed := h.checks.passed
  selected := h.checks.selected
  noOutput := h.checks.noOutput
  sought hphase := h.sought hparsed.coherent hphase
  rowStart f hf hphase := by
    have hplace := h.place f hf
    rw [hphase] at hplace
    obtain ⟨y, h₁, h₂, h₃, h₄⟩ := hplace
    exact ⟨y, h₁, h₂, h₃, h₄⟩
  pixel f hf hphase := by
    have hplace := h.place f hf
    rw [hphase] at hplace
    obtain ⟨y, x, ⟨h₁, h₂, h₃, h₄, h₅⟩, hx⟩ := hplace
    exact ⟨y, x, h₁, h₂, h₃, hx, h₄, h₅⟩
  rowEnd f hf hphase := by
    have hplace := h.place f hf
    rw [hphase] at hplace
    obtain ⟨y, x, ⟨h₁, h₂, h₃, h₄, h₅⟩, hx⟩ := hplace
    exact ⟨y, x, h₁, h₂, h₃, hx, h₄, h₅⟩
  finished f hf hphase := by
    have hplace := h.place f hf
    rcases hphase with hphase | hphase <;> rw [hphase] at hplace <;> exact ⟨hplace.pos, hplace.written⟩

/-! ### How a step ends -/

/-- Past D_ALLOC the checks stay passed, and nothing is said of the output. -/
theorem Memory.ChecksPassed.later (h : m.ChecksPassed p out) (hp : 19 < p) (hq : 21 < q) {out' : Option PixelStore} :
    m.ChecksPassed q out' := ⟨fun _ => h.passed (by omega), fun _ => h.selected hp, fun hle => by omega⟩

theorem Memory.ChecksPassed.unchecked (h : p ≤ 18) : m.ChecksPassed p none :=
  ⟨fun hlt => by omega, fun hlt => by omega, fun _ => rfl⟩

/-- In a run the step in progress is the one that `phase` names. -/
theorem State.DecodesBuffer.of_running (code : BitVec 5) (hrun : s.status = .parsing ∨ s.status = .decoding)
    (hphase : s.phase = code) (hchecks : s.buf.ChecksPassed code.toNat s.out)
    (hplace : ∀ f, formatOfDepth s.buf.depth = some f → s.Place f code.toNat) : s.DecodesBuffer := by
  subst hphase
  exact ⟨progress_of_running hrun ▸ hchecks, hplace⟩

/-- Within the step `code`, what its fault leaves. -/
def State.CheckedTo (code : BitVec 5) (s : State) : Prop := s.buf.ChecksPassed code.toNat s.out

theorem checkedTo_sees_frame (code : BitVec 5) : Sees State.frame (State.CheckedTo code) := fun _ => Iff.rfl

theorem takeFault_decodesBuffer (r : Raise) (h : s.CheckedTo code) : (takeFault r code s).DecodesBuffer :=
  ⟨h, fun _ _ => trivial⟩

theorem runStep_decodesBuffer {op : Op Unit} (h : LeadsIn (State.CheckedTo code) State.DecodesBuffer (op s)) :
    (runStep code op s).DecodesBuffer := by
  cases hr : op s with
  | ok u t => rw [hr] at h; rw [runStep_ok code hr]; exact h
  | error r t => rw [hr] at h; rw [runStep_error code hr]; exact takeFault_decodesBuffer r h

/-! ### The header steps: nothing checked, nothing written -/

/-- During the parse there is no output. -/
def State.ParsingNoOutput (s : State) : Prop := s.status = .parsing ∧ s.out = none

theorem headerMoves_decodesBuffer (hcode : 1 ≤ code.toNat ∧ code.toNat ≤ 17) :
    HeaderMoves State.ParsingNoOutput State.DecodesBuffer code where
  fault r t ht := takeFault_decodesBuffer r (by rw [State.CheckedTo, ht.2]; exact .unchecked (by omega))
  next hle t ht := by
    have hnext : (code + 1).toNat ≤ 17 := by bv_omega
    refine .of_running (code + 1) (.inl ht.1) rfl ?_ fun _ _ => .of_le (by omega)
    dsimp only
    rw [ht.2]
    exact .unchecked (by omega)
  endOfParse _ t ht := by
    refine .of_running Phase.dChkcomp (.inr rfl) rfl ?_ fun _ _ => trivial
    dsimp only
    rw [ht.2]
    exact .unchecked (by decide)

/-! ### The decoder steps -/

/-- The state in which the decoder step `code` begins. -/
structure State.AtDecode (code : BitVec 5) (s : State) : Prop where
  phase    : s.phase = code
  status   : s.status = .decoding
  range    : 18 ≤ code.toNat ∧ code.toNat ≤ 25
  read     : s.buf.HeaderRead code.toNat s.md s.pal
  inBounds : s.pos ≤ s.buf.len
  checks   : s.CheckedTo code
  place    : ∀ f, formatOfDepth s.buf.depth = some f → s.Place f code.toNat

theorem statusOfPhase_eq_decoding_iff (phase : BitVec 5) :
    statusOfPhase phase = some .decoding ↔ 18 ≤ phase.toNat ∧ phase.toNat ≤ 25 := by
  revert phase; decide

theorem State.Decoded.atDecode (h : s.Decoded) (hstatus : s.status = .decoding) : s.AtDecode s.phase := by
  have hprogress := progress_of_running (.inr hstatus)
  exact
    { phase := rfl
      status := hstatus
      range := (statusOfPhase_eq_decoding_iff _).mp (hstatus ▸ h.parsed.coherent.status)
      read := hprogress ▸ h.parsed.headerRead
      inBounds := h.parsed.inBounds
      checks := by rw [State.CheckedTo, ← hprogress]; exact h.decodesBuffer.checks
      place := fun _ hf => h.place hf }

namespace State.AtDecode

theorem dataOffset_eq (hs : s.AtDecode code) : s.dataOffset = s.buf.u32At 10 := by
  have hrange := hs.range
  exact dataOffset_of_some ((congrArg Metadata.dataOffset hs.read.fields).trans (if_pos (by omega)))

theorem md_width_eq (hs : s.AtDecode code) : s.md.width = some (s.buf.u32At 18) := by
  have hrange := hs.range
  exact (congrArg Metadata.width hs.read.fields).trans (if_pos (by omega))

theorem width_eq (hs : s.AtDecode code) : s.width.toNat = s.buf.width :=
  congrArg BitVec.toNat (width_of_some hs.md_width_eq)

theorem height_eq (hs : s.AtDecode code) : s.height.toNat = s.buf.height := by
  have hrange := hs.range
  exact congrArg BitVec.toNat
    (height_of_some ((congrArg Metadata.height hs.read.fields).trans (if_pos (by omega))))

theorem compression_eq (hs : s.AtDecode code) : s.compression = s.buf.u32At 30 := by
  have hrange := hs.range
  exact compression_of_some ((congrArg Metadata.compression hs.read.fields).trans (if_pos (by omega)))

theorem depth_eq (hs : s.AtDecode code) : s.bitsPerPixel = s.buf.depth := by
  have hrange := hs.range
  exact bitsPerPixel_of_some (hs.read.bitsPerPixel (by omega))

theorem colors_eq (hs : s.AtDecode code) : s.colorsCount = s.buf.colors := by
  have hrange := hs.range
  exact colorsCount_of_some (hs.read.colorsCount (by omega))

theorem pixelCount_eq (hs : s.AtDecode code) : s.pixelCount = s.buf.width * s.buf.height := by
  rw [State.pixelCount, hs.width_eq, hs.height_eq]

/-- From D_SEEK on a pixel format is selected. -/
theorem format (hs : s.AtDecode code) (hcode : 19 < code.toNat) : ∃ f, formatOfDepth s.buf.depth = some f :=
  Option.isSome_iff_exists.mp (hs.checks.selected hcode)

theorem paletteLoaded (hs : s.AtDecode code) (h : hasPalette s.buf.depth = true) : s.PaletteLoaded := by
  have hrange := hs.range
  have hpal := hs.read.palette (by omega)
  rw [Memory.PaletteIs, if_pos h] at hpal
  obtain ⟨st, hst, -, hget⟩ := hpal
  exact ⟨hs.colors_eq, fun i hi => palEntry_of_get hst (hget i hi)⟩

theorem masksLoaded (hs : s.AtDecode code) (h : hasMasks s.buf.depth = true) : s.MasksLoaded := by
  have hrange := hs.range
  have hmasks := hs.read.masks (by omega)
  obtain ⟨hr, hg, hb⟩ := (Metadata.masks_eq_iff ..).mp hmasks
  simp [State.MasksLoaded, State.maskR, State.maskG, State.maskB, hr, hg, hb, Memory.mask, h]

theorem pixelReady (hs : s.AtDecode code) (hf : formatOfDepth s.buf.depth = some f) : s.PixelReady f := by
  have hdepth : s.buf.depth.toNat = formatBits f := by
    rw [depth_of_formatOfDepth hf]
    cases f <;> rfl
  exact ⟨fun h => hs.paletteLoaded ((hasPalette_iff _).mpr (hdepth ▸ h)),
    fun h => hs.masksLoaded ((hasMasks_iff _).mpr (hdepth ▸ h)), hs.inBounds⟩

end State.AtDecode

/-! ### The checks and D_SEEK -/

theorem stepChkcomp_decodesBuffer (hs : s.AtDecode Phase.dChkcomp) :
    (runStep Phase.dChkcomp stepChkcomp s).DecodesBuffer := by
  refine runStep_decodesBuffer ?_
  by_cases h : compressionSupported s.compression = true
  · rw [stepChkcomp_ok h]
    rw [hs.compression_eq] at h
    exact .of_running Phase.dChkdepth (.inr hs.status) rfl
      ⟨fun _ => h, fun hlt => absurd hlt (by decide), fun _ => hs.checks.noOutput (by decide)⟩ fun _ _ => trivial
  · rw [stepChkcomp_error h]
    exact hs.checks

theorem stepChkdepth_decodesBuffer (hs : s.AtDecode Phase.dChkdepth) :
    (runStep Phase.dChkdepth stepChkdepth s).DecodesBuffer := by
  refine runStep_decodesBuffer ?_
  by_cases h : (formatOfDepth s.bitsPerPixel).isSome = true
  · rw [stepChkdepth_ok h]
    rw [hs.depth_eq] at h
    exact .of_running Phase.dSeek (.inr hs.status) rfl
      ⟨fun _ => hs.checks.passed (by decide), fun _ => h, fun _ => hs.checks.noOutput (by decide)⟩ fun _ _ => trivial
  · rw [stepChkdepth_error h]
    exact hs.checks

theorem stepSeek_decodesBuffer (hs : s.AtDecode Phase.dSeek) : (runStep Phase.dSeek stepSeek s).DecodesBuffer := by
  refine runStep_decodesBuffer ?_
  by_cases h : s.dataOffset.toNat ≤ s.buf.len
  · rw [stepSeek_ok h]
    refine .of_running Phase.dAlloc (.inr hs.status) rfl
      ⟨fun _ => hs.checks.passed (by decide), fun _ => hs.checks.selected (by decide),
        fun _ => hs.checks.noOutput (by decide)⟩ fun _ _ => ?_
    exact congrArg BitVec.toNat hs.dataOffset_eq
  · rw [stepSeek_error (Nat.lt_of_not_le h)]
    exact hs.checks

/-! ### D_ALLOC and D_ROWSTART -/

/-- In a new output nothing is written, nor need be before the first pixel. -/
theorem written_alloc {n row column : Nat} (hout : s.out = some (PixelStore.alloc n))
    (hn : n = s.buf.width * s.buf.height) (hrow : s.buf.height ≤ row + 1) (hcolumn : s.buf.height = 0 ∨ column = 0) :
    s.Written f row column :=
  ⟨_, hout, hn, fun _ _ _ _ hbefore => by omega⟩

theorem allocOutput_decodesBuffer (hs : s.AtDecode Phase.dAlloc) : (allocOutput s).DecodesBuffer := by
  have hheight := hs.height_eq
  by_cases h0 : s.height = 0
  · have hnone : s.buf.height = 0 := hheight ▸ (eq_zero_iff_toNat _).mp h0
    rw [allocOutput_noRows h0]
    refine .of_running Phase.dFinish (.inr hs.status) rfl (hs.checks.later (by decide) (by decide)) fun f hf =>
      ⟨?_, ?_⟩
    · have hpos : s.pos = (s.buf.u32At 10).toNat := hs.place f hf
      simp [Memory.pixelsEnd, hnone, hpos]
    · exact written_alloc rfl hs.pixelCount_eq (hnone.trans_le (Nat.zero_le _)) (.inl hnone)
  · have hrows : 0 < s.height.toNat := Nat.pos_of_ne_zero (mt (eq_zero_iff_toNat _).mpr h0)
    have hlast : (s.height - 1).toNat = s.buf.height - 1 := by rw [sub_one_toNat hrows, hheight]
    rw [hheight] at hrows
    rw [allocOutput_rows h0]
    refine .of_running Phase.dRowstart (.inr hs.status) rfl (hs.checks.later (by decide) (by decide)) fun f hf =>
      ⟨s.height - 1, rfl, ?_, ?_, ?_⟩
    · rw [hlast]
      exact Nat.sub_lt hrows Nat.one_pos
    · have hpos : s.pos = (s.buf.u32At 10).toNat := hs.place f hf
      rw [hlast, Memory.rowStart, Nat.sub_self, Nat.zero_mul]
      exact hpos
    · exact written_alloc rfl hs.pixelCount_eq (by dsimp only; omega) (.inr rfl)

theorem startRow_atColumn {y : U32} (h : s.AtRow f y) : (startRow s).AtColumn f y 0 where
  row := h.row
  column := rfl
  rowLt := h.rowLt
  inRow := ⟨by simp [h.pos], by simp, by simp, fun hne => absurd rfl hne⟩
  written := h.written

theorem startRow_decodesBuffer (hs : s.AtDecode Phase.dRowstart) : (startRow s).DecodesBuffer := by
  have hwidth := hs.width_eq
  by_cases h0 : s.width = 0
  · refine .of_running Phase.dRowend (.inr hs.status) ((startRow_phase s).trans (if_pos h0))
      (hs.checks.later (by decide) (by decide)) fun f hf => ?_
    obtain ⟨y, hrow⟩ := hs.place f hf
    exact ⟨y, 0, startRow_atColumn hrow, ((eq_zero_iff_toNat _).mp h0).symm.trans hwidth⟩
  · refine .of_running Phase.dPixel (.inr hs.status) ((startRow_phase s).trans (if_neg h0))
      (hs.checks.later (by decide) (by decide)) fun f hf => ?_
    obtain ⟨y, hrow⟩ := hs.place f hf
    exact ⟨y, 0, startRow_atColumn hrow, hwidth ▸ Nat.pos_of_ne_zero (mt (eq_zero_iff_toNat _).mpr h0)⟩

/-! ### D_PIXEL -/

/-- A pixel index in row-major order has one row and one column. -/
theorem index_injective {w y x y' x' : Nat} (hx : x < w) (hx' : x' < w) (h : y' * w + x' = y * w + x) :
    y' = y ∧ x' = x := by
  have hcolumn : ∀ a b, b < w → (a * w + b) % w = b := fun a b hb => by rw [Nat.mul_add_mod', Nat.mod_eq_of_lt hb]
  have hxx : x' = x := by rw [← hcolumn y' x' hx', h, hcolumn y x hx]
  subst hxx
  exact ⟨Nat.eq_of_mul_eq_mul_right (Nat.zero_lt_of_lt hx) (Nat.add_right_cancel h), rfl⟩

theorem index_lt {w h y x : Nat} (hy : y < h) (hx : x < w) : y * w + x < w * h := by nlinarith

/-- The pixels up to column `x` of row `y` being written, the write at `y*width + x` is the next one. -/
theorem State.Written.put {st : PixelStore} {y x : Nat} (h : s.Written f y x) (hst : s.out = some st)
    (hfits : y * s.buf.width + x < st.size) (hx : x < s.buf.width) (hbuf : t.buf = s.buf)
    (hout : t.out = some (st.set (y * s.buf.width + x) (s.buf.pixelAt f (s.buf.rowStart f y) x))) :
    t.Written f y (x + 1) := by
  obtain ⟨st', hst', hsize, hget⟩ := h
  obtain rfl : st = st' := Option.some.inj (hst.symm.trans hst')
  rw [State.Written, hbuf]
  refine ⟨_, hout, (PixelStore.set_size ..).trans hsize, fun y' x' hy' hx' hbefore => ?_⟩
  by_cases hsame : y' * s.buf.width + x' = y * s.buf.width + x
  · obtain ⟨rfl, rfl⟩ := index_injective hx hx' hsame
    exact PixelStore.get_set_same _ _ _ hfits
  · rw [PixelStore.get_set_other _ _ _ _ hsame]
    refine hget y' x' hy' hx' ?_
    have hne : ¬ (y = y' ∧ x' = x) := by rintro ⟨rfl, rfl⟩; exact hsame rfl
    omega

/-- D_PIXEL at column `x` of row `y`: it takes a fault of the pixel operation, or the decode is at the next column. -/
inductive PixelStepEnds (s : State) (f : PixelFormat) (y x : U32) : Out → Prop
  | fault (r : Raise) (s' : State) (hfault : PixelFault s.buf f y.toNat x.toNat r) (hframe : s'.frame = s.frame) :
      PixelStepEnds s f y x (.next (takeFault r Phase.dPixel s'))
  | stored (t : State) (hbuf : t.buf = s.buf) (hstatus : t.status = s.status) (herr : t.err = s.err)
      (hphase : t.phase = if x.toNat + 1 < s.buf.width then Phase.dPixel else Phase.dRowend)
      (hcolumn : t.AtColumn f y (x + 1)) : PixelStepEnds s f y x (.next t)

/-- `y*width + x` is an index of the output. -/
theorem State.AtColumn.atEntry {y x : U32} (h : s.AtColumn f y x) (hs : s.AtDecode Phase.dPixel)
    (hx : x.toNat < s.buf.width) : ∃ st, s.AtEntry (s.buf.u32At 18) x y st := by
  obtain ⟨st, hst, hsize, -⟩ := h.written
  exact ⟨st, hs.md_width_eq, h.column, h.row, hst, hsize ▸ index_lt h.rowLt hx⟩

theorem column_succ {x : U32} (hx : x.toNat < m.width) : (x + 1).toNat = x.toNat + 1 := by
  have hw : m.width < 2 ^ 32 := (m.u32At 18).isLt
  bv_omega

theorem execDPixel_ends {y x : U32} (hs : s.AtDecode Phase.dPixel) (hf : formatOfDepth s.buf.depth = some f)
    (h : s.AtColumn f y x) (hx : x.toNat < s.buf.width) : PixelStepEnds s f y x (execDPixel s) := by
  have hf' : formatOfDepth s.bitsPerPixel = some f := hs.depth_eq ▸ hf
  have hends := pixelOp_ends (hs.pixelReady hf) h.inRow
  obtain ⟨st, hentry⟩ := h.atEntry hs hx
  cases hr : pixelOp f s with
  | error r s' =>
    rw [hr] at hends
    rw [execDPixel_error hf' hr]
    exact .fault r s' hends (pixelOp_frame_of_error hr)
  | ok p s' =>
    rw [hr] at hends
    obtain ⟨rfl, hnext⟩ := hends
    have hframe := pixelOp_frame_of_ok hr
    have hbuf : s'.frame.buf = s.frame.buf := congrArg State.buf hframe
    have hrow : s'.frame.y = s.frame.y := congrArg State.y hframe
    have hstatus : s'.frame.status = s.frame.status := congrArg State.status hframe
    have herr : s'.frame.err = s.frame.err := congrArg State.err hframe
    rw [execDPixel_ok hf' hentry hr]
    refine .stored _ hbuf hstatus herr rfl ?_
    exact
      { row := hrow.trans h.row
        column := rfl
        rowLt := hbuf.symm ▸ h.rowLt
        inRow := by
          rw [column_succ hx]
          exact ⟨hnext.pos, hnext.rowBytes, hnext.remaining, hnext.current⟩
        written := by
          rw [column_succ hx]
          exact h.written.put hentry.out hentry.fits hx hbuf rfl }

theorem execDPixel_decodesBuffer (hs : s.AtDecode Phase.dPixel) : NextIn State.DecodesBuffer (execDPixel s) := by
  obtain ⟨f, hf⟩ := hs.format (by decide)
  obtain ⟨y, x, hcolumn, hx⟩ := hs.place f hf
  have hends := execDPixel_ends hs hf hcolumn hx
  generalize execDPixel s = o at hends ⊢
  cases hends with
  | fault r s' _ hframe =>
    exact takeFault_decodesBuffer r ((checkedTo_sees_frame Phase.dPixel).congr hframe hs.checks)
  | stored t hbuf hstatus _ hphase hnext =>
    have hrun : t.status = .parsing ∨ t.status = .decoding := .inr (hstatus.trans hs.status)
    have hchecks {q : Nat} (hq : 21 < q) : t.buf.ChecksPassed q t.out := hbuf ▸ hs.checks.later (by decide) hq
    have hsucc := column_succ hx
    have hformat {f' : PixelFormat} (hf' : formatOfDepth t.buf.depth = some f') : f = f' :=
      Option.some.inj (hf.symm.trans (hbuf ▸ hf'))
    by_cases hlast : x.toNat + 1 < s.buf.width
    · refine .of_running Phase.dPixel hrun (hphase.trans (if_pos hlast)) (hchecks (by decide)) fun f' hf' => ?_
      obtain rfl := hformat hf'
      exact ⟨y, x + 1, hnext, by rw [hsucc, hbuf]; exact hlast⟩
    · refine .of_running Phase.dRowend hrun (hphase.trans (if_neg hlast)) (hchecks (by decide)) fun f' hf' => ?_
      obtain rfl := hformat hf'
      exact ⟨y, x + 1, hnext, by rw [hsucc, hbuf]; omega⟩

/-! ### D_ROWEND and D_FINISH -/

/-- A whole row and its padding are a stride (R99, R198). -/
theorem State.AtColumn.pos_add_padBytes {y x : U32} (h : s.AtColumn f y x) (hx : x.toNat = s.buf.width) :
    s.pos + padBytes s.rowBytes = s.buf.rowStart f y.toNat + stride s.buf.width (formatBits f) := by
  rw [h.inRow.pos, h.inRow.rowBytes, hx, stride, Nat.add_assoc]

/-- Row `y` being written whole, the next row up is next. -/
theorem State.Written.rowUp {y : Nat} (h : s.Written f y s.buf.width) (hy : 0 < y) : s.Written f (y - 1) 0 := by
  obtain ⟨st, hst, hsize, hget⟩ := h
  exact ⟨st, hst, hsize, fun y' x' hy' hx' hbefore => hget y' x' hy' hx' (by omega)⟩

/-- After output row 0 the image is complete. -/
theorem State.AtColumn.lastRow {y x : U32} (h : s.AtColumn f y x) (hx : x.toNat = s.buf.width) (h0 : y.toNat = 0) :
    { s with pos := s.pos + padBytes s.rowBytes, bitsRemaining := 0, phase := Phase.dFinish }.ImageComplete f where
  pos := by
    have hpos := h.pos_add_padBytes hx
    rw [h0] at hpos
    exact hpos.trans (Memory.rowStart_zero (Nat.zero_lt_of_lt h.rowLt))
  written := by
    have hwritten := h.written
    rw [h0, hx] at hwritten
    exact hwritten

/-- After any other row the next row up begins. -/
theorem State.AtColumn.nextRow {y x : U32} (h : s.AtColumn f y x) (hx : x.toNat = s.buf.width) (hy : 0 < y.toNat) :
    { s with pos := s.pos + padBytes s.rowBytes, bitsRemaining := 0, y := some (y - 1)
             phase := Phase.dRowstart }.AtRow f (y - 1) where
  row := rfl
  rowLt := by
    rw [sub_one_toNat hy]
    exact (Nat.sub_le _ _).trans_lt h.rowLt
  pos := by
    rw [sub_one_toNat hy, Memory.rowStart_pred hy h.rowLt]
    exact h.pos_add_padBytes hx
  written := by
    rw [sub_one_toNat hy]
    exact (hx ▸ h.written : s.Written f y.toNat s.buf.width).rowUp hy

theorem stepRowend_decodesBuffer (hs : s.AtDecode Phase.dRowend) :
    (runStep Phase.dRowend stepRowend s).DecodesBuffer := by
  refine runStep_decodesBuffer ?_
  by_cases hin : s.pos + padBytes s.rowBytes ≤ s.buf.len
  · rw [stepRowend_ok hin]
    by_cases h0 : s.row = 0
    · rw [leaveRow_lastRow (s := { s with pos := _, bitsRemaining := 0 }) h0]
      refine .of_running Phase.dFinish (.inr hs.status) rfl (hs.checks.later (by decide) (by decide)) fun f hf => ?_
      obtain ⟨y, x, hcolumn, hx⟩ := hs.place f hf
      rw [row_of_some hcolumn.row] at h0
      exact hcolumn.lastRow hx ((eq_zero_iff_toNat _).mp h0)
    · rw [leaveRow_nextRow (s := { s with pos := _, bitsRemaining := 0 }) h0]
      refine .of_running Phase.dRowstart (.inr hs.status) rfl (hs.checks.later (by decide) (by decide)) fun f hf => ?_
      obtain ⟨y, x, hcolumn, hx⟩ := hs.place f hf
      obtain rfl : s.row = y := row_of_some hcolumn.row
      exact ⟨s.row - 1, hcolumn.nextRow hx (Nat.pos_of_ne_zero (mt (eq_zero_iff_toNat _).mpr h0))⟩
  · rw [stepRowend_error (Nat.lt_of_not_le hin)]
    exact hs.checks

theorem finish_decodesBuffer (hs : s.AtDecode Phase.dFinish) : (finish s).DecodesBuffer := by
  refine ⟨hs.checks.later (q := 30) (by decide) (by decide), fun f hf => ?_⟩
  obtain ⟨hpos, hwritten⟩ := hs.place f hf
  exact ⟨hpos, hwritten⟩

theorem exec_decoder_decodesBuffer {i : Instr} (hi : encode i = some (.ph code)) (hs : s.AtDecode code) :
    NextIn State.DecodesBuffer (exec i s) := by
  cases i with
  | dChkcomp => cases hi; exact stepChkcomp_decodesBuffer hs
  | dChkdepth => cases hi; exact stepChkdepth_decodesBuffer hs
  | dSeek => cases hi; exact stepSeek_decodesBuffer hs
  | dAlloc => cases hi; exact nextIn_of_eq_next fun t h => execDAlloc_eq_next h ▸ allocOutput_decodesBuffer hs
  | dRowstart => cases hi; exact startRow_decodesBuffer hs
  | dPixel => cases hi; exact execDPixel_decodesBuffer hs
  | dRowend => cases hi; exact stepRowend_decodesBuffer hs
  | dFinish => cases hi; exact finish_decodesBuffer hs
  | hSig | hFilesize | hReserved | hDataoffset | hDibsize | hWidth | hHeight | hPlanes | hBpp | hCompression
  | hDatasize | hResh | hResv | hColors | hImpcolors | hPalette | hMasks =>
    cases hi; exact absurd hs.range.1 (by decide)
  | _ => simp [encode] at hi

/-! ### Every step -/

theorem exec_header_decodesBuffer {i : Instr} (hi : encode i = some (.ph s.phase)) (hd : s.Decoded)
    (hstatus : s.status = .parsing) : NextIn State.DecodesBuffer (exec i s) := by
  have hcode := hd.parsed.coherent.parsing_iff.mp hstatus
  have hout : s.out = none := hd.noOutput (by rw [progress_of_running (.inl hstatus)]; omega)
  exact exec_header (P := State.ParsingNoOutput) (fun _ => Iff.rfl) hi hcode.2 ⟨hstatus, hout⟩
    (headerMoves_decodesBuffer hcode)

/-- Outside a run the one place of the decode is the finished image. -/
theorem State.Place.atRest (hrest : atRest s.phase = true) (h : s.Place f s.phase.toNat)
    (himage : s.ImageComplete f → t.ImageComplete f) : t.Place f s.phase.toNat := by
  have hphase := (atRest_iff _).mp hrest
  simp only [List.mem_cons, List.not_mem_nil, or_false] at hphase
  rcases hphase with hphase | hphase | hphase <;> rw [hphase] at h ⊢
  · trivial
  · exact himage h
  · trivial

theorem hostMove_decodesBuffer (hd : s.Decoded) (hrest : atRest s.phase = true) (h : HostMove s t) :
    t.DecodesBuffer := by
  obtain ⟨hchecks, hplace⟩ := hd.decodesBuffer
  cases h with
  | present => exact ⟨hchecks, fun f hf => .atRest (s := s) hrest (hplace f hf) fun h => ⟨h.pos, h.written⟩⟩
  | reset => exact ⟨.unchecked (p := 0) (by decide), fun _ _ => trivial⟩
  | start cmd rest hin hop hidle =>
    have hout : s.out = none := by rw [hd.parsed.coherent.idle hidle, resetRegisters_out]
    refine .of_running Phase.hSig (.inl rfl) rfl ?_ fun _ _ => trivial
    rw [startSession_out, hout]
    exact .unchecked (by decide)
  | answer => exact ⟨hchecks, fun f hf => .atRest (s := s) hrest (hplace f hf) fun h => ⟨h.pos, h.written⟩⟩

theorem step_decodesBuffer (hd : s.Decoded) (h : step s = .next t) : t.DecodesBuffer := by
  have hc := hd.parsed.coherent
  rcases running_or_atRest hc with hrun | hrest
  · obtain ⟨i, hdecode, hexec⟩ := step_running hc hrun h
    have hi := encode_of_decodePH hdecode
    have hnext : NextIn State.DecodesBuffer (exec i s) := by
      rcases hrun with hstatus | hstatus
      · exact exec_header_decodesBuffer hi hd hstatus
      · exact exec_decoder_decodesBuffer hi (hd.atDecode hstatus)
    rwa [hexec] at hnext
  · exact hostMove_decodesBuffer hd hrest (step_atRest hc.unit hrest h)

end Sys2Proof.Machine

namespace Sys2Proof.Statements
open Sys2Proof.Machine

/-- Settles O52: the parse stays true to the buffer (O51), and each step leads to the next place of the decode. -/
theorem stepsKeepOutputTrueToTheBuffer : Obligations.StepsKeepOutputTrueToTheBuffer := fun s t hd hstep =>
  (step_decodesBuffer hd hstep).decoded (stepsKeepMetadataTrueToTheBuffer s t hd.parsed hstep)

/-- Settles O53: what RDOUT reads of a finished session is the closed form. -/
theorem doneImageIsThePixelArray : Obligations.DoneImageIsThePixelArray := by
  intro s f x y hd hdone hf hx hy
  show execRdout _ s = _
  rw [execRdout, readOutput_of_done hd hdone hf hx hy]
  rfl

end Sys2Proof.Statements
end

section
/-! `md.compression` has no effect beyond D_CHKCOMP (R202): every later operation commutes with writing it. -/
namespace Sys2Proof.Machine
open Sys2Proof.Statements

variable {α β : Type} {g : State → State}

/-- The same end in a state changed by `g`. -/
def mapResult (g : State → State) : EStateM.Result Raise State α → EStateM.Result Raise State α
  | .ok a t => .ok a (g t)
  | .error r t => .error r (g t)

/-- The operation does not see what `g` changes: run after it, it does the same. -/
def Blind (g : State → State) (op : Op α) : Prop := ∀ s, op (g s) = mapResult g (op s)

theorem Blind.bind {op : Op α} {f : α → Op β} (hop : Blind g op) (hf : ∀ a, Blind g (f a)) : Blind g (op >>= f) := by
  intro s
  rw [op_bind, op_bind, hop s]
  cases op s with
  | ok a t => exact hf a t
  | error r t => rfl

theorem Blind.pure (a : α) : Blind g (Pure.pure a : Op α) := fun _ => rfl

theorem Blind.raise (kind : ErrKind) (info : Nat) : Blind g (raise kind info : Op α) := fun _ => rfl

/-- A value computed from other registers, which is seen by `rfl`. -/
theorem Blind.ask {f : State → α} (hf : ∀ s, f (g s) = f s := by intro _; rfl) : Blind g (ask f) := fun s => by
  rw [op_ask, hf]
  rfl

/-- A write from other registers to other registers, which is seen by `rfl`. -/
theorem Blind.update {f : State → State} (hf : ∀ s, f (g s) = g (f s) := by intro _; rfl) : Blind g (update f) :=
  fun s => by
    rw [op_update, hf]
    rfl

/-- A course chosen by other registers, which is seen by `rfl`. -/
theorem Blind.iteState {c : State → Prop} [DecidablePred c] {op₁ op₂ : State → Op α} (h₁ : ∀ s, Blind g (op₁ s))
    (h₂ : ∀ s, Blind g (op₂ s)) (hc : ∀ s, c (g s) = c s := by intro _; rfl)
    (hop₁ : ∀ s, op₁ (g s) = op₁ s := by intro _; rfl) (hop₂ : ∀ s, op₂ (g s) = op₂ s := by intro _; rfl) :
    Blind g fun s => if c s then op₁ s s else op₂ s s := by
  intro s
  simp only [hc, hop₁, hop₂]
  split
  · exact h₁ s s
  · exact h₂ s s

/-- The state with `c` in `md.compression`. -/
def State.withCompression (c : Option U32) (s : State) : State := { s with md := { s.md with compression := c } }

variable {c : Option U32}

/-! ### The operations of cursor and pixel unit -/

theorem cursorRead_blind (n : Nat) {value : State → α}
    (hvalue : ∀ s, value (s.withCompression c) = value s := by intro _; rfl) :
    Blind (State.withCompression c) (cursorRead n value) := by
  intro s
  by_cases h : s.pos + n ≤ s.buf.len
  · rw [cursorRead_ok n value s h, cursorRead_ok n value (s.withCompression c) h, hvalue]
    rfl
  · have hlt := Nat.lt_of_not_le h
    rw [cursorRead_error n value s hlt, cursorRead_error n value (s.withCompression c) hlt]
    rfl

theorem seek_blind (p : Nat) : Blind (State.withCompression c) (seek p) := by
  intro s
  by_cases h : p ≤ s.buf.len
  · rw [seek_ok p s h, seek_ok p (s.withCompression c) h]
    rfl
  · have hlt := Nat.lt_of_not_le h
    rw [seek_error p s hlt, seek_error p (s.withCompression c) hlt]
    rfl

theorem skip_blind (n : Nat) : Blind (State.withCompression c) (skip n) := fun s => seek_blind (s.pos + n) s

theorem consumeBits_blind (bpp : Nat) : Blind (State.withCompression c) (consumeBits bpp) := by
  intro s
  have hbits : (s.withCompression c).bitsRemaining = s.bitsRemaining := rfl
  by_cases h : bpp ≤ s.bitsRemaining.val <;> simp only [consumeBits, hbits, h, if_true, if_false] <;> rfl

theorem unpack_blind (d : SubDepth) : Blind (State.withCompression c) (unpack d) :=
  have fetchByte_blind : Blind (State.withCompression c) fetchByte :=
    (cursorRead_blind 1).bind fun _ => .bind .update fun _ => .update
  .iteState (fun _ => fetchByte_blind.bind fun _ => consumeBits_blind _) fun _ => consumeBits_blind _

theorem lookup_blind (index : Nat) : Blind (State.withCompression c) (lookup index) :=
  .iteState (op₁ := fun _ => raise .paletteIndexRange index) (op₂ := fun _ => ask fun s => s.palEntry index)
    (fun _ => .raise _ _) fun _ => .ask

theorem pixelOp_blind (f : PixelFormat) : Blind (State.withCompression c) (pixelOp f) := by
  have byte : Blind (State.withCompression c) rdu8 := cursorRead_blind 1
  cases f with
  | p1 | p2 | p4 => exact (unpack_blind _).bind lookup_blind
  | p8 => exact byte.bind fun _ => .bind .update fun _ => lookup_blind _
  | p16 => exact (cursorRead_blind 2).bind fun _ => .bind .update fun _ => .ask
  | p24 => exact byte.bind fun _ => byte.bind fun _ => byte.bind fun _ => .bind .update fun _ => .pure _
  | p32 =>
    exact byte.bind fun _ => byte.bind fun _ => byte.bind fun _ => byte.bind fun _ => .bind .update fun _ => .pure _

/-! ### The header steps after H_COMPRESSION -/

theorem rdu32_blind : Blind (State.withCompression c) rdu32 := cursorRead_blind 4

/-- A plain step whose register is another one, which is seen by `rfl`. -/
theorem readField32_blind {write : U32 → Metadata → Metadata} (next : BitVec 5)
    (hwrite : ∀ v md, write v { md with compression := c } = { write v md with compression := c } := by
      intro _ _; rfl) : Blind (State.withCompression c) (readField32 write next) :=
  rdu32_blind.bind fun v =>
    .bind (.update fun s => congrArg (fun md => { s with md := md }) (hwrite v s.md)) fun _ => .update

theorem stepColors_blind : Blind (State.withCompression c) stepColors :=
  rdu32_blind.bind fun _ => .bind .update fun _ => .update

theorem stepImpcolors_blind : Blind (State.withCompression c) stepImpcolors :=
  rdu32_blind.bind fun _ => .bind .update fun _ => .update

theorem readPaletteEntries_blind (n i : Nat) : Blind (State.withCompression c) (readPaletteEntries n i) := by
  induction n generalizing i with
  | zero => exact .pure ()
  | succ n ih =>
    have byte : Blind (State.withCompression c) rdu8 := cursorRead_blind 1
    have entry : Blind (State.withCompression c) (readPaletteEntry i) :=
      byte.bind fun _ => byte.bind fun _ => byte.bind fun _ => (skip_blind 1).bind fun _ => .update
    exact entry.bind fun _ => ih (i + 1)

theorem stepPalette_blind : Blind (State.withCompression c) stepPalette :=
  .iteState (fun _ => Blind.bind .update fun _ => (readPaletteEntries_blind _ 0).bind fun _ => .update)
    fun _ => Blind.bind .update fun _ => .update

theorem stepMasks_blind : Blind (State.withCompression c) stepMasks :=
  .iteState
    (fun _ => rdu32_blind.bind fun _ => .bind .update fun _ => rdu32_blind.bind fun _ => .bind .update fun _ =>
      rdu32_blind.bind fun _ => .bind .update fun _ => .update)
    fun _ => Blind.bind .update fun _ => .update

/-! ### The decoder control steps -/

theorem stepChkdepth_blind : Blind (State.withCompression c) stepChkdepth :=
  .iteState (op₁ := fun _ => goto Phase.dSeek) (fun _ => .update) fun _ => .raise _ _

theorem stepSeek_blind : Blind (State.withCompression c) stepSeek :=
  fun s => ((seek_blind s.dataOffset.toNat).bind fun _ => .update) s

theorem leaveRow_withCompression (s : State) : leaveRow (s.withCompression c) = (leaveRow s).withCompression c := by
  by_cases h : s.row = 0
  · rw [leaveRow_lastRow h, leaveRow_lastRow (s := s.withCompression c) h]
    rfl
  · rw [leaveRow_nextRow h, leaveRow_nextRow (s := s.withCompression c) h]
    rfl

theorem stepRowend_blind : Blind (State.withCompression c) stepRowend :=
  fun s => ((skip_blind (padBytes s.rowBytes)).bind fun _ => .bind .update fun _ =>
    .update leaveRow_withCompression) s

/-! ### Every operation after D_CHKCOMP -/

/-- The meaning does the same with another value in `md.compression`. -/
def IgnoresCompression (c : Option U32) (run : State → Out) : Prop :=
  ∀ s, run (s.withCompression c) = mapNext (State.withCompression c) (run s)

theorem runStep_ignoresCompression {op : Op Unit} (hop : Blind (State.withCompression c) op) (code : BitVec 5) :
    IgnoresCompression c fun s => .next (runStep code op s) := by
  intro s
  simp only [runStep, hop s, mapNext]
  cases op s <;> rfl

theorem runUnit_ignoresCompression {op : Op Result} (hop : Blind (State.withCompression c) op) :
    IgnoresCompression c fun s => .next (runUnit op s) := by
  intro s
  simp only [runUnit, hop s, mapNext]
  cases op s <;> rfl

theorem exec_pixelInstr_ignoresCompression (f : PixelFormat) : IgnoresCompression c (exec (pixelInstr f)) := by
  intro s
  rw [exec_pixelInstr, exec_pixelInstr]
  exact runUnit_ignoresCompression ((pixelOp_blind f).bind fun _ => .pure _) s

theorem allocOutput_withCompression (s : State) :
    allocOutput (s.withCompression c) = (allocOutput s).withCompression c := by
  by_cases h : s.height = 0
  · rw [allocOutput_noRows h, allocOutput_noRows (s := s.withCompression c) h]
    rfl
  · rw [allocOutput_rows h, allocOutput_rows (s := s.withCompression c) h]
    rfl

theorem execDAlloc_ignoresCompression : IgnoresCompression c execDAlloc := by
  intro s
  cases h : outputFits s.pixelCount with
  | true =>
    rw [execDAlloc_fits h, execDAlloc_fits (s := s.withCompression c) h, allocOutput_withCompression]
    rfl
  | false =>
    rw [execDAlloc_refused h, execDAlloc_refused (s := s.withCompression c) h]
    rfl

theorem storePixel_ignoresCompression (p : Rgba8) : IgnoresCompression c (storePixel p) := by
  intro s
  have hout : (s.withCompression c).out = s.out := rfl
  have hindex : (s.withCompression c).outIndex = s.outIndex := rfl
  simp only [storePixel, hout, hindex]
  cases s.out with
  | none => rfl
  | some st =>
    dsimp only
    split <;> rfl

theorem execDPixel_ignoresCompression : IgnoresCompression c execDPixel := by
  intro s
  have hdepth : (s.withCompression c).bitsPerPixel = s.bitsPerPixel := rfl
  simp only [execDPixel, hdepth]
  cases formatOfDepth s.bitsPerPixel with
  | none => rfl
  | some f =>
    simp only [pixelOp_blind f s]
    cases pixelOp f s with
    | ok p t => exact storePixel_ignoresCompression p t
    | error r t => rfl

end Sys2Proof.Machine

namespace Sys2Proof.Statements
open Sys2Proof.Machine

/-- Settles O47: no part of a later operation reads the register, and none writes it. -/
theorem compressionHasNoFurtherEffect : Obligations.CompressionHasNoFurtherEffect := by
  intro i s c
  revert i
  simp only [List.forall_mem_cons]
  exact
    ⟨runStep_ignoresCompression (readField32_blind _) _ s, runStep_ignoresCompression (readField32_blind _) _ s,
      runStep_ignoresCompression (readField32_blind _) _ s, runStep_ignoresCompression stepColors_blind _ s,
      runStep_ignoresCompression stepImpcolors_blind _ s, runStep_ignoresCompression stepPalette_blind _ s,
      runStep_ignoresCompression stepMasks_blind _ s, runStep_ignoresCompression stepChkdepth_blind _ s,
      runStep_ignoresCompression stepSeek_blind _ s, execDAlloc_ignoresCompression s, rfl,
      execDPixel_ignoresCompression s, runStep_ignoresCompression stepRowend_blind _ s, rfl,
      exec_pixelInstr_ignoresCompression .p1 s, exec_pixelInstr_ignoresCompression .p2 s,
      exec_pixelInstr_ignoresCompression .p4 s, exec_pixelInstr_ignoresCompression .p8 s,
      exec_pixelInstr_ignoresCompression .p16 s, exec_pixelInstr_ignoresCompression .p24 s,
      exec_pixelInstr_ignoresCompression .p32 s, nofun⟩

end Sys2Proof.Statements
end

section
/-! A run goes on to its end (R201, R203): every state of a run has a step, but for an image beyond `OUT_CAP`; and in a
buffer that holds header and pixel array no step raises `OutOfBounds`, nor any fault if its fields are in order. -/
namespace Sys2Proof.Machine
open Sys2Proof.Statements

variable {s t : State} {m : Memory} {f : PixelFormat} {code : BitVec 5} {i : Instr}

/-! ### Every state of a run has a step -/

/-- A step of a run is the sequencer step that `phase` names, whatever comes of it. -/
theorem step_eq_exec (hc : s.Coherent) (hr : s.status = .parsing ∨ s.status = .decoding) :
    ∃ i, decodePH s.phase = .ok i ∧ step s = exec i s := by
  obtain ⟨i, hdecode⟩ := (decodePH_isOk_iff s.phase).mpr (range_of_running hc.status hr)
  exact ⟨i, hdecode, step_of_fetch (fetch_phase hc.unit (atRest_of_running hc hr)) hdecode⟩

/-- Every sequencer step but D_ALLOC and D_PIXEL answers a next state in every state. -/
theorem exec_answers (hi : encode i = some (.ph code)) (ha : code ≠ Phase.dAlloc) (hp : code ≠ Phase.dPixel)
    (s : State) : ∃ t, exec i s = .next t := by
  cases i with
  | hSig | hFilesize | hReserved | hDataoffset | hDibsize | hWidth | hHeight | hPlanes | hBpp | hCompression
  | hDatasize | hResh | hResv | hColors | hImpcolors | hPalette | hMasks => exact ⟨_, rfl⟩
  | dChkcomp | dChkdepth | dSeek | dRowstart | dRowend | dFinish => exact ⟨_, rfl⟩
  | dAlloc | dPixel => cases hi; contradiction
  | _ => simp [encode] at hi

/-- D_PIXEL answers a next state wherever the decode is in a row. -/
theorem execDPixel_answers (hs : s.AtDecode Phase.dPixel) : ∃ t, execDPixel s = .next t := by
  obtain ⟨f, hf⟩ := hs.format (by decide)
  obtain ⟨y, x, hcolumn, hx⟩ := hs.place f hf
  have hends := execDPixel_ends hs hf hcolumn hx
  generalize execDPixel s = o at hends ⊢
  cases hends <;> exact ⟨_, rfl⟩

/-- A state of a run has a next state, or the image does not fit the output space (R194, R203). -/
def RunGoesOn (s : State) : Prop :=
  (∃ t, step s = .next t) ∨
    (s.phase = Phase.dAlloc ∧ outputFits (s.buf.width * s.buf.height) = false ∧
      step s = .refused .outputCapacityExceeded)

theorem runGoesOn_dAlloc (hs : s.AtDecode Phase.dAlloc) (hstep : step s = execDAlloc s) : RunGoesOn s := by
  rw [RunGoesOn, hstep, ← hs.pixelCount_eq]
  cases h : outputFits s.pixelCount with
  | true => exact .inl ⟨_, execDAlloc_fits h⟩
  | false => exact .inr ⟨hs.phase, rfl, execDAlloc_refused h⟩

theorem runGoesOn (hd : s.Decoded) (hrun : s.status = .parsing ∨ s.status = .decoding) : RunGoesOn s := by
  have hc := hd.parsed.coherent
  obtain ⟨i, hdecode, hstep⟩ := step_eq_exec hc hrun
  have atDecode (hcode : 18 ≤ s.phase.toNat) : s.AtDecode s.phase := by
    refine hd.atDecode (hrun.resolve_left fun hparsing => ?_)
    have hrange := hc.parsing_iff.mp hparsing
    omega
  by_cases ha : s.phase = Phase.dAlloc
  · have hs := atDecode (by rw [ha]; decide)
    rw [ha] at hs hdecode
    cases hdecode
    exact runGoesOn_dAlloc hs hstep
  · by_cases hp : s.phase = Phase.dPixel
    · have hs := atDecode (by rw [hp]; decide)
      rw [hp] at hs hdecode
      cases hdecode
      exact .inl (hstep ▸ execDPixel_answers hs)
    · exact .inl (hstep ▸ exec_answers (encode_of_decodePH hdecode) ha hp s)

/-! ### Faults in a covered buffer -/

/-- A fault that a run over a covered buffer can take: none for a missing byte, and none at all if the buffer can be
decoded. -/
def Memory.Permits (m : Memory) (kind : ErrKind) : Prop := kind ≠ .outOfBounds ∧ ∀ f, ¬ m.Decodable f

/-- The fault taken, if any, is one that `m` permits. -/
def State.FaultPermitted (m : Memory) (t : State) : Prop := ∀ e, t.err = some e → m.Permits e.kind

/-- The operation ends well without a fault taken, or raises one that `m` permits. -/
abbrev EndsPermitted (m : Memory) (result : EStateM.Result Raise State Unit) : Prop :=
  EndsIn (fun t => t.err = none) (fun r => m.Permits r.kind) result

theorem faultPermitted_of_none (h : t.err = none) : t.FaultPermitted m := fun e he => by
  rw [h] at he
  cases he

theorem takeFault_faultPermitted {r : Raise} (h : m.Permits r.kind) : (takeFault r code s).FaultPermitted m :=
  fun e he => by
    rw [takeFault_err] at he
    cases he
    exact h

theorem runStep_faultPermitted {op : Op Unit} (h : EndsPermitted m (op s)) :
    (runStep code op s).FaultPermitted m := by
  cases hr : op s with
  | ok u t => rw [hr] at h; rw [runStep_ok code hr]; exact faultPermitted_of_none h
  | error r t => rw [hr] at h; rw [runStep_error code hr]; exact takeFault_faultPermitted h.2

/-- A step that begins with a read which the buffer covers. -/
theorem EndsPermitted.cursorRead {α : Type} {n : Nat} {value : State → α} {f : α → Op Unit}
    (hin : s.pos + n ≤ s.buf.len) (h : EndsPermitted m (f (value s) { s with pos := s.pos + n })) :
    EndsPermitted m ((Machine.cursorRead n value >>= f) s) := by
  rw [op_bind_ok (cursorRead_ok n value s hin)]
  exact h

/-! ### The header steps (R111) -/

theorem paletteEnd_le_hdrLen (m : Memory) : m.paletteEnd ≤ hdrLen m.depth m.colors := by
  cases h : hasMasks m.depth with
  | true => rw [paletteEnd_of_hasMasks h, hdrLen_of_hasMasks h]; decide
  | false => rw [hdrLen_of_not_hasMasks h]

theorem le_paletteEnd (m : Memory) : 54 ≤ m.paletteEnd := by
  unfold Memory.paletteEnd
  split <;> omega

/-- The fixed fields lie in a covered buffer (R91). -/
theorem State.AtHeader.covered (hs : s.AtHeader code) (hcovered : s.buf.Covered) {n : Nat}
    (hn : code.toNat ≤ 16 ∧ headerOffset code.toNat + n ≤ 54) : s.pos + n ≤ s.buf.len := by
  have hheader := hcovered.header
  have hpalette := paletteEnd_le_hdrLen s.buf
  have hfields := le_paletteEnd s.buf
  rw [hs.pos_eq hn.1]
  omega

theorem stepSig_endsPermitted (hs : s.AtHeader Phase.hSig) (hcovered : s.buf.Covered) (herr : s.err = none) :
    EndsPermitted s.buf (stepSig s) := by
  refine .cursorRead (hs.covered hcovered (by decide)) ?_
  have hpos : s.pos = 0 := hs.pos_eq (by decide)
  show EndsPermitted _ (checkSignature (signatureText s) _)
  by_cases h : s.buf.byteAt s.pos = 0x42 ∧ s.buf.byteAt (s.pos + 1) = 0x4D
  · rw [checkSignature_ok h]
    exact herr
  · rw [checkSignature_error h]
    rw [hpos] at h
    exact ⟨herr, nofun, fun f hdecodable => h hdecodable.signature⟩

theorem stepPalette_endsPermitted (hs : s.AtHeader Phase.hPalette) (hcovered : s.buf.Covered) (herr : s.err = none) :
    EndsPermitted s.buf (stepPalette s) := by
  have hpos : s.pos = 54 := hs.pos_eq (by decide)
  have hdepth := hs.depth_eq (by decide)
  cases h : hasPalette s.buf.depth with
  | true =>
    have hheader := hcovered.header
    rw [hdrLen, if_pos h, ← hs.colors_eq (by decide), ← hpos] at hheader
    rw [stepPalette_of_hasPalette (by rw [hdepth, h]), loadPalette_ok hheader]
    exact herr
  | false =>
    rw [stepPalette_of_not_hasPalette (by rw [hdepth, h])]
    exact herr

theorem stepMasks_endsPermitted (hs : s.AtHeader Phase.hMasks) (hcovered : s.buf.Covered) (herr : s.err = none) :
    EndsPermitted s.buf (stepMasks s) := by
  have hdepth := hs.depth_eq (by decide)
  have hpos := hs.pos_eq_paletteEnd
  cases h : hasMasks s.buf.depth with
  | true =>
    have hheader := hcovered.header
    rw [hdrLen_of_hasMasks h] at hheader
    rw [paletteEnd_of_hasMasks h] at hpos
    rw [stepMasks_of_hasMasks (by rw [hdepth, h])]
    exact .cursorRead (by omega) <| .cursorRead (by dsimp only; omega) <| .cursorRead (by dsimp only; omega) herr
  | false =>
    rw [stepMasks_of_not_hasMasks (by rw [hdepth, h])]
    exact herr

theorem exec_header_faultPermitted (hi : encode i = some (.ph code)) (hs : s.AtHeader code)
    (hcovered : s.buf.Covered) (herr : s.err = none) : NextIn (State.FaultPermitted s.buf) (exec i s) := by
  cases i with
  | hSig => cases hi; exact runStep_faultPermitted (stepSig_endsPermitted hs hcovered herr)
  | hFilesize | hReserved | hDataoffset | hDibsize | hWidth | hHeight | hCompression | hDatasize | hResh | hResv
  | hPlanes | hBpp | hColors | hImpcolors =>
    cases hi; exact runStep_faultPermitted (.cursorRead (hs.covered hcovered (by decide)) herr)
  | hPalette => cases hi; exact runStep_faultPermitted (stepPalette_endsPermitted hs hcovered herr)
  | hMasks => cases hi; exact runStep_faultPermitted (stepMasks_endsPermitted hs hcovered herr)
  | dChkcomp | dChkdepth | dSeek | dAlloc | dRowstart | dPixel | dRowend | dFinish =>
    cases hi; exact absurd hs.range.2 (by decide)
  | _ => simp [encode] at hi

/-! ### The decoder steps (R201) -/

theorem stepChkcomp_endsPermitted (hs : s.AtDecode Phase.dChkcomp) (herr : s.err = none) :
    EndsPermitted s.buf (stepChkcomp s) := by
  by_cases h : compressionSupported s.compression = true
  · rw [stepChkcomp_ok h]
    exact herr
  · rw [stepChkcomp_error h]
    rw [hs.compression_eq, compressionSupported_iff] at h
    exact ⟨herr, nofun, fun f hdecodable => h hdecodable.compression⟩

theorem stepChkdepth_endsPermitted (hs : s.AtDecode Phase.dChkdepth) (herr : s.err = none) :
    EndsPermitted s.buf (stepChkdepth s) := by
  by_cases h : (formatOfDepth s.bitsPerPixel).isSome = true
  · rw [stepChkdepth_ok h]
    exact herr
  · rw [stepChkdepth_error h]
    rw [hs.depth_eq] at h
    exact ⟨herr, nofun, fun f hdecodable => h (Option.isSome_iff_exists.mpr ⟨f, hdecodable.depth⟩)⟩

theorem stepSeek_endsPermitted (hs : s.AtDecode Phase.dSeek) (hcovered : s.buf.Covered) (herr : s.err = none) :
    EndsPermitted s.buf (stepSeek s) := by
  obtain ⟨f, hf⟩ := hs.format (by decide)
  have hin : s.dataOffset.toNat ≤ s.buf.len := by
    rw [hs.dataOffset_eq]
    exact (Nat.le_add_right _ _).trans (hcovered.pixels f hf)
  rw [stepSeek_ok hin]
  exact herr

theorem execDPixel_faultPermitted (hs : s.AtDecode Phase.dPixel) (hcovered : s.buf.Covered) (herr : s.err = none) :
    NextIn (State.FaultPermitted s.buf) (execDPixel s) := by
  obtain ⟨f, hf⟩ := hs.format (by decide)
  obtain ⟨y, x, hcolumn, hx⟩ := hs.place f hf
  have hends := execDPixel_ends hs hf hcolumn hx
  generalize execDPixel s = o at hends ⊢
  cases hends with
  | stored t _ _ hsame => exact faultPermitted_of_none (hsame.trans herr)
  | fault r s' hfault =>
    refine takeFault_faultPermitted ?_
    cases hfault with
    | short _ hlen =>
      have hpixel := Memory.pixelEnd_le_pixelsEnd (f := f) hcolumn.rowLt hx
      exact absurd (hpixel.trans (hcovered.pixels f hf)) (Nat.not_le_of_lt hlen)
    | index n hkind hindex hcolors =>
      refine ⟨by rw [hkind]; nofun, fun f' hdecodable => ?_⟩
      obtain rfl : f = f' := Option.some.inj (hf.symm.trans hdecodable.depth)
      exact absurd (hdecodable.indexes _ _ n hcolumn.rowLt hx hindex) (Nat.not_lt_of_le hcolors)

theorem leaveRow_err (s : State) : (leaveRow s).err = s.err := by
  unfold leaveRow
  split <;> rfl

theorem stepRowend_endsPermitted (hs : s.AtDecode Phase.dRowend) (hcovered : s.buf.Covered) (herr : s.err = none) :
    EndsPermitted s.buf (stepRowend s) := by
  obtain ⟨f, hf⟩ := hs.format (by decide)
  obtain ⟨y, x, hcolumn, hx⟩ := hs.place f hf
  have hin : s.pos + padBytes s.rowBytes ≤ s.buf.len := by
    rw [hcolumn.pos_add_padBytes hx]
    exact (Memory.rowEnd_le_pixelsEnd hcolumn.rowLt).trans (hcovered.pixels f hf)
  rw [stepRowend_ok hin]
  exact (leaveRow_err _).trans herr

theorem exec_decoder_faultPermitted (hi : encode i = some (.ph code)) (hs : s.AtDecode code)
    (hcovered : s.buf.Covered) (herr : s.err = none) : NextIn (State.FaultPermitted s.buf) (exec i s) := by
  cases i with
  | dChkcomp => cases hi; exact runStep_faultPermitted (stepChkcomp_endsPermitted hs herr)
  | dChkdepth => cases hi; exact runStep_faultPermitted (stepChkdepth_endsPermitted hs herr)
  | dSeek => cases hi; exact runStep_faultPermitted (stepSeek_endsPermitted hs hcovered herr)
  | dAlloc =>
    exact nextIn_of_eq_next fun t h => faultPermitted_of_none (by rw [execDAlloc_eq_next h, allocOutput_err, herr])
  | dRowstart | dFinish => exact faultPermitted_of_none herr
  | dPixel => cases hi; exact execDPixel_faultPermitted hs hcovered herr
  | dRowend => cases hi; exact runStep_faultPermitted (stepRowend_endsPermitted hs hcovered herr)
  | hSig | hFilesize | hReserved | hDataoffset | hDibsize | hWidth | hHeight | hPlanes | hBpp | hCompression
  | hDatasize | hResh | hResv | hColors | hImpcolors | hPalette | hMasks =>
    cases hi; exact absurd hs.range.1 (by decide)
  | _ => simp [encode] at hi

/-! ### A step of a run over a covered buffer -/

theorem State.Decoded.atHeader (hd : s.Decoded) (hstatus : s.status = .parsing) : s.AtHeader s.phase :=
  ⟨rfl, hstatus, hd.parsed.coherent.parsing_iff.mp hstatus, hd.parsed.readsBuffer⟩

theorem step_faultPermitted (hd : s.Decoded) (hrun : s.status = .parsing ∨ s.status = .decoding)
    (hcovered : s.buf.Covered) (h : step s = .next t) : t.FaultPermitted s.buf := by
  have hc := hd.parsed.coherent
  have herr := err_of_running hc hrun
  obtain ⟨i, hdecode, hexec⟩ := step_running hc hrun h
  have hi := encode_of_decodePH hdecode
  have hnext : NextIn (State.FaultPermitted s.buf) (exec i s) := by
    rcases hrun with hstatus | hstatus
    · exact exec_header_faultPermitted hi (hd.atHeader hstatus) hcovered herr
    · exact exec_decoder_faultPermitted hi (hd.atDecode hstatus) hcovered herr
  rwa [hexec] at hnext

/-- A run works on one buffer (R61). -/
theorem step_running_buf (hc : s.Coherent) (hrun : s.status = .parsing ∨ s.status = .decoding)
    (h : step s = .next t) : t.buf = s.buf := by
  obtain ⟨i, hdecode, hexec⟩ := step_running hc hrun h
  have hi := encode_of_decodePH hdecode
  have hkept := exec_memoriesKept (i := i) s (by rintro rfl; cases hi)
  rw [hexec] at hkept
  exact hkept.buf

theorem step_decodable (hd : s.Decoded) (hrun : s.status = .parsing ∨ s.status = .decoding)
    (hdecodable : s.buf.Decodable f) (h : step s = .next t) :
    t.status ≠ .failed ∧ (t.status = .done → t.pos = s.buf.pixelsEnd f) := by
  have hbuf := step_running_buf hd.parsed.coherent hrun h
  have hdt : t.Decoded := stepsKeepOutputTrueToTheBuffer s t hd h
  refine ⟨fun hfailed => ?_, fun hdone => ?_⟩
  · have hsome : t.err.isSome = true := by rw [hdt.parsed.coherent.err, hfailed]; rfl
    obtain ⟨e, he⟩ := Option.isSome_iff_exists.mp hsome
    exact (step_faultPermitted hd hrun hdecodable.covered h e he).2 f hdecodable
  · have hf : formatOfDepth t.buf.depth = some f := hbuf ▸ hdecodable.depth
    exact hbuf ▸ (hdt.finished f hf (.inr (phase_of_done hdt hdone))).1

end Sys2Proof.Machine

namespace Sys2Proof.Statements
open Sys2Proof.Machine

/-- Settles O55: the row and column of D_PIXEL have an entry in the output; D_ALLOC alone can be refused. -/
theorem runIsNeverStuck : Obligations.RunIsNeverStuck := fun _ hd hrun => runGoesOn hd hrun

/-- Settles O57: every access of the step in progress lies in header or pixel array, and the two checks and the lookups
are those that `Decodable` passes. -/
theorem coveredRunTakesNoFault : Obligations.CoveredRunTakesNoFault := by
  refine ⟨fun s t e hd hrun hcovered hstep herr => (step_faultPermitted hd hrun hcovered hstep e herr).1,
    fun s f hd hrun hdecodable => ?_⟩
  obtain ⟨t, hstep⟩ | hrefused := runGoesOn hd hrun
  · exact .inl ⟨t, hstep, step_decodable hd hrun hdecodable hstep⟩
  · exact .inr hrefused

end Sys2Proof.Statements
end

section
/-! The pixel operations run by themselves (R220 to R231): each gives its pixel, UNPACK its index, back to the issuer,
or faults in the step in progress; and the numbers that index and channels are. -/
namespace Sys2Proof.Machine
open Sys2Proof.Statements

variable {s t : State}

/-! ### What the issuer gets -/

theorem runUnit_returnPixel_ok {op : Op Rgba8} {p : Rgba8} (h : op s = .ok p t) :
    runUnit (returnPixel op) s = { t with opResult := some (.pixel p) } :=
  runUnit_ok (op_bind_ok (f := fun p => pure (Result.pixel p)) h)

theorem runUnit_returnPixel_error {op : Op Rgba8} {r : Raise} (h : op s = .error r t) :
    runUnit (returnPixel op) s = failedWith r.kind r.info s.phase t :=
  runUnit_error (op_bind_error (f := fun p => pure (Result.pixel p)) h)

theorem exec_pixelInstr_ok {f : PixelFormat} {p : Rgba8} (h : pixelOp f s = .ok p t) :
    exec (pixelInstr f) s = .next { t with opResult := some (.pixel p) } := by
  rw [exec_pixelInstr, runUnit_returnPixel_ok h]

theorem exec_pixelInstr_error {f : PixelFormat} {r : Raise} (h : pixelOp f s = .error r t) :
    exec (pixelInstr f) s = .next (failedWith r.kind r.info s.phase t) := by
  rw [exec_pixelInstr, runUnit_returnPixel_error h]

theorem exec_unpack_ok {d : SubDepth} {index : Nat} (h : unpack d s = .ok index t) :
    exec (.unpack d) s = .next { t with opResult := some (.number index) } :=
  congrArg Host.Outcome.next (runUnit_ok (op_bind_ok (f := fun index => pure (Result.number index)) h))

theorem exec_unpack_error {d : SubDepth} {r : Raise} (h : unpack d s = .error r t) :
    exec (.unpack d) s = .next (failedWith r.kind r.info s.phase t) :=
  congrArg Host.Outcome.next (runUnit_error (op_bind_error (f := fun index => pure (Result.number index)) h))

/-! ### Reads that the buffer does not cover (R139) -/

theorem px8_error (h : s.buf.len < s.pos + 1) : px8 s = .error ⟨.outOfBounds, s.pos + 1⟩ s := by
  rw [px8, op_bind_error (rdu8_error s h)]

theorem px16_error (h : s.buf.len < s.pos + 2) : px16 s = .error ⟨.outOfBounds, s.pos + 2⟩ s := by
  rw [px16, op_bind_error (rdu16_error s h)]

/-! ### LOOKUP (R228) -/

theorem lookup_of_get {colors : U32} {pal : PixelStore} {i : Nat} {p : Rgba8} (hcolors : s.md.colorsCount = some colors)
    (hi : i < colors.toNat) (hpal : s.pal = some pal) (hget : pal.get i = some p) : lookup i s = .ok p s := by
  obtain rfl := colorsCount_of_some hcolors
  rw [lookup_ok i s hi, palEntry_of_get hpal hget]

theorem lookup_outOfRange {colors : U32} {i : Nat} (hcolors : s.md.colorsCount = some colors)
    (hi : colors.toNat ≤ i) : lookup i s = .error ⟨.paletteIndexRange, i⟩ s :=
  lookup_error i s (colorsCount_of_some hcolors ▸ hi)

/-! ### UNPACK (R103, R220) -/

theorem subIndex_eq_extractLsb' (b : Byte) (n bpp : Nat) : subIndex b n bpp = (b.extractLsb' (n - bpp) bpp).toNat := by
  rw [subIndex_eq_mod, BitVec.extractLsb'_toNat]

theorem subIndex_lt (b : Byte) (n bpp : Nat) : subIndex b n bpp < 2 ^ bpp := by
  rw [subIndex_eq_mod]
  exact Nat.mod_lt _ (Nat.two_pow_pos bpp)

/-- With a byte to fetch, or bits enough left, UNPACK gives an index of its depth. -/
theorem unpack_eq_ok {d : SubDepth}
    (h : s.bitsRemaining = 0 ∧ s.pos + 1 ≤ s.buf.len ∨ subBits d ≤ s.bitsRemaining.val) :
    ∃ index t, unpack d s = .ok index t ∧ index < 2 ^ subBits d := by
  obtain ⟨hnone, hlen⟩ | hbits := h
  · exact ⟨_, _, unpack_fetch d s hnone hlen, subIndex_lt ..⟩
  · exact ⟨_, _, unpack_have d s hbits, subIndex_lt ..⟩

theorem KeepsFrame.frame_of_ok {α : Type} {op : Op α} {a : α} (hop : KeepsFrame op) (h : op s = .ok a t) :
    t.frame = s.frame := by
  have hframe := hop s
  rwa [endState, h] at hframe

/-- The three sub-byte pixel operations are those of the formats of their depths (R104). -/
theorem eq_pixelInstr_subFormat {d : SubDepth} {px : Instr}
    (h : (d, px) ∈ [(SubDepth.d1, Instr.px1), (.d2, .px2), (.d4, .px4)]) : px = pixelInstr (subFormat d) := by
  cases d <;> simpa [subFormat, pixelInstr] using h

theorem pixelOp_subFormat_of_unpack_ok {d : SubDepth} {index : Nat} (h : unpack d s = .ok index t) :
    pixelOp (subFormat d) s = lookup index t := by rw [pixelOp_subFormat, op_bind_ok h]

theorem pixelOp_subFormat_of_unpack_error {d : SubDepth} {r : Raise} (h : unpack d s = .error r t) :
    pixelOp (subFormat d) s = .error r t := by rw [pixelOp_subFormat, op_bind_error h]

/-! ### The 16-bit pixel (R225) -/

theorem maskR_of_some {mask : U32} (h : s.md.maskR = some mask) : s.maskR = mask := by
  rw [State.maskR, h, Option.getD_some]

theorem maskG_of_some {mask : U32} (h : s.md.maskG = some mask) : s.maskG = mask := by
  rw [State.maskG, h, Option.getD_some]

theorem maskB_of_some {mask : U32} (h : s.md.maskB = some mask) : s.maskB = mask := by
  rw [State.maskB, h, Option.getD_some]

theorem toNat_narrow8 {v : Nat} (h : v < 256) : (narrow8 v).toNat = v := by
  rw [narrow8, if_pos h, BitVec.toNat_ofNat, Nat.mod_eq_of_lt h]

/-- What is a byte already needs no narrowing (D9). -/
theorem narrow8_toNat (b : Byte) : narrow8 b.toNat = b := BitVec.eq_of_toNat_eq (toNat_narrow8 b.isLt)

/-- The three shifts as the quotients and the product that they are. -/
theorem pixel16_eq_div_mul (value : U16) (r g b : U32) :
    pixel16 value r g b =
      ⟨narrow8 ((value.toNat &&& r.toNat) / 256), narrow8 ((value.toNat &&& g.toNat) / 8),
        narrow8 ((value.toNat &&& b.toNat) * 8), 255⟩ := by
  simp only [pixel16, Nat.shiftRight_eq_div_pow, Nat.shiftLeft_eq, Nat.reducePow]

/-- Masking with `len` ones above `lo` zeros keeps the field there. -/
theorem and_fieldMask (v len lo : Nat) : v &&& (2 ^ len - 1) * 2 ^ lo = v / 2 ^ lo % 2 ^ len * 2 ^ lo := by
  apply Nat.eq_of_testBit_eq
  intro i
  by_cases h : lo ≤ i
  · simp [Nat.testBit_mul_two_pow, Nat.testBit_mod_two_pow, Nat.testBit_div_two_pow, h, Bool.and_comm]
  · simp [Nat.testBit_mul_two_pow, h]

/-- The field of `len` bits from `lo`, with `zeros` zeros after it. -/
theorem toNat_extractLsb'_append_zero (value : U16) (lo len zeros : Nat) :
    (value.extractLsb' lo len ++ (0 : BitVec zeros)).toNat = value.toNat / 2 ^ lo % 2 ^ len * 2 ^ zeros := by
  rw [BitVec.toNat_append, BitVec.extractLsb'_toNat, Nat.shiftLeft_eq, Nat.shiftRight_eq_div_pow]
  exact Nat.or_zero _

end Sys2Proof.Machine

namespace Sys2Proof.Statements
open Sys2Proof.Machine

/-- Settles O32: each mask is the field's ones, and the fixed shift leaves the field's own zeros below it, so that the
number to narrow is a byte. -/
theorem canonicalMasksNeedNoNarrowing : Obligations.CanonicalMasksNeedNoNarrowing := by
  intro value
  rw [pixel16_eq_div_mul]
  have hred : (value.toNat &&& (0xF800 : U32).toNat) / 256 = (value.extractLsb' 11 5 ++ (0 : BitVec 3)).toNat := by
    have hmask : (0xF800 : U32).toNat = (2 ^ 5 - 1) * 2 ^ 11 := rfl
    rw [hmask, and_fieldMask, toNat_extractLsb'_append_zero]
    omega
  have hgreen : (value.toNat &&& (0x07E0 : U32).toNat) / 8 = (value.extractLsb' 5 6 ++ (0 : BitVec 2)).toNat := by
    have hmask : (0x07E0 : U32).toNat = (2 ^ 6 - 1) * 2 ^ 5 := rfl
    rw [hmask, and_fieldMask, toNat_extractLsb'_append_zero]
    omega
  have hblue : (value.toNat &&& (0x001F : U32).toNat) * 8 = (value.extractLsb' 0 5 ++ (0 : BitVec 3)).toNat := by
    have hmask : (0x001F : U32).toNat = (2 ^ 5 - 1) * 2 ^ 0 := rfl
    rw [hmask, and_fieldMask, toNat_extractLsb'_append_zero]
    omega
  rw [hred, hgreen, hblue]
  simp only [narrow8_toNat]

/-- Settles O34: UNPACK in closed form, its index being a field of the byte. -/
theorem unpackTakesTheTopBits : Obligations.UnpackTakesTheTopBits := by
  refine fun s d left => ⟨fun hnone hlen => exec_unpack_error (unpack_error d s hnone hlen),
    fun hnone hlen hleft => ?_, fun hbits hleft => ?_⟩
  · obtain rfl : left = ⟨8 - subBits d, Nat.lt_succ_of_le (Nat.sub_le _ _)⟩ := Fin.ext hleft
    rw [← subIndex_eq_extractLsb']
    exact exec_unpack_ok (unpack_fetch d s hnone hlen)
  · obtain rfl : left = ⟨s.bitsRemaining.val - subBits d, (Nat.sub_le _ _).trans_lt s.bitsRemaining.isLt⟩ :=
      Fin.ext hleft
    rw [← subIndex_eq_extractLsb']
    exact exec_unpack_ok (unpack_have d s hbits)

/-- Settles O35: the pixel operation is UNPACK and then LOOKUP; UNPACK leaves the palette registers, so that LOOKUP
finds them as they were. -/
theorem subBytePixelsUnpackThenLookUp : Obligations.SubBytePixelsUnpackThenLookUp := by
  refine ⟨rfl, rfl, rfl, fun d px hpx s colors hcolors => ?_⟩
  obtain rfl := eq_pixelInstr_subFormat hpx
  refine ⟨fun hnone hlen => ?_, fun hbits => ?_⟩
  · exact exec_pixelInstr_error (pixelOp_subFormat_of_unpack_error (unpack_error d s hnone hlen))
  · obtain ⟨index, t, hunpack, hindex⟩ := unpack_eq_ok hbits
    have hframe := (KeepsFrame.unpack d).frame_of_ok hunpack
    have hcolors' : t.md.colorsCount = some colors := (congrArg (fun u => u.md.colorsCount) hframe).trans hcolors
    have hpixel := pixelOp_subFormat_of_unpack_ok hunpack
    refine ⟨t, index, hindex, exec_unpack_ok hunpack, (congrArg State.opResult hframe :), fun hge => ?_,
      fun pal p hlt hpal hget => ?_⟩
    · exact exec_pixelInstr_error (hpixel.trans (lookup_outOfRange hcolors' hge))
    · have hpal' : t.pal = some pal := (congrArg State.pal hframe).trans hpal
      exact exec_pixelInstr_ok (hpixel.trans (lookup_of_get hcolors' hlt hpal' hget))

/-- Settles O30: with the bytes there, three or four reads; else the first that the buffer does not cover ends the
operation. -/
theorem trueColorPixels : Obligations.TrueColorPixels :=
  ⟨rfl, rfl, fun _ =>
    ⟨fun hlen => exec_pixelInstr_ok (f := .p24) (px24_ok hlen),
      fun hpos hlen => exec_pixelInstr_error (f := .p24) (px24_short hpos hlen),
      fun hlen => exec_pixelInstr_ok (f := .p32) (px32_ok hlen),
      fun hpos hlen => exec_pixelInstr_error (f := .p32) (px32_short hpos hlen)⟩⟩

/-- Settles O31: the function is the model's `NARROW8`, and the value read is a little-endian number. -/
theorem maskedPixels : Obligations.MaskedPixels := by
  refine ⟨rfl, narrow8, fun _ hv => toNat_narrow8 hv, fun s r g b hr hg hb => ⟨fun hlen => ?_, fun hlen => ?_⟩⟩
  · obtain rfl := maskR_of_some hr
    obtain rfl := maskG_of_some hg
    obtain rfl := maskB_of_some hb
    rw [← u16At_toNat, ← pixel16_eq_div_mul]
    exact exec_pixelInstr_ok (f := .p16) (px16_ok hlen)
  · exact exec_pixelInstr_error (f := .p16) (px16_error hlen)

/-- Settles O33: LOOKUP is one test of the index; PX8 is a read and then LOOKUP of its byte. -/
theorem paletteLookups : Obligations.PaletteLookups := by
  refine ⟨rfl, fun s colors hcolors => ⟨fun index hge => ?_, fun index pal p hlt hpal hget => ?_, fun hlen => ?_,
    fun hlen hge => ?_, fun pal p hlen hlt hpal hget => ?_⟩⟩
  · exact congrArg Host.Outcome.next (runUnit_returnPixel_error (lookup_outOfRange hcolors hge))
  · exact congrArg Host.Outcome.next (runUnit_returnPixel_ok (lookup_of_get hcolors hlt hpal hget))
  · exact exec_pixelInstr_error (f := .p8) (px8_error hlen)
  · exact exec_pixelInstr_error (f := .p8) ((px8_eq_lookup hlen).trans (lookup_outOfRange hcolors hge))
  · exact exec_pixelInstr_ok (f := .p8) ((px8_eq_lookup hlen).trans (lookup_of_get hcolors hlt hpal hget))

end Sys2Proof.Statements
end

section
/-! Non-interference of the host with a run (R259, R304): every sequencer step commutes with writing what the host has
lined up and what it presents. -/
namespace Sys2Proof.Machine
open Sys2Proof.Statements

variable {α : Type} {moves : List HostInput} {m : Memory}

/-- The state with `moves` lined up by the host and `m` presented. -/
def State.withHost (moves : List HostInput) (m : Memory) (s : State) : State := { s with inputs := moves, source := m }

/-- The operation does not see what the host has lined up and presents. -/
abbrev BlindToHost (moves : List HostInput) (m : Memory) (op : Op α) : Prop := Blind (State.withHost moves m) op

/-! ### The operations of cursor and pixel unit -/

theorem cursorRead_blindToHost (n : Nat) {value : State → α}
    (hvalue : ∀ s, value (s.withHost moves m) = value s := by intro _; rfl) :
    BlindToHost moves m (cursorRead n value) := by
  intro s
  by_cases h : s.pos + n ≤ s.buf.len
  · rw [cursorRead_ok n value s h, cursorRead_ok n value (s.withHost moves m) h, hvalue]
    rfl
  · have hlt := Nat.lt_of_not_le h
    rw [cursorRead_error n value s hlt, cursorRead_error n value (s.withHost moves m) hlt]
    rfl

theorem rdu8_blindToHost : BlindToHost moves m rdu8 := cursorRead_blindToHost 1

theorem rdu32_blindToHost : BlindToHost moves m rdu32 := cursorRead_blindToHost 4

theorem seek_blindToHost (p : Nat) : BlindToHost moves m (seek p) := by
  intro s
  by_cases h : p ≤ s.buf.len
  · rw [seek_ok p s h, seek_ok p (s.withHost moves m) h]
    rfl
  · have hlt := Nat.lt_of_not_le h
    rw [seek_error p s hlt, seek_error p (s.withHost moves m) hlt]
    rfl

theorem skip_blindToHost (n : Nat) : BlindToHost moves m (skip n) := fun s => seek_blindToHost (s.pos + n) s

theorem consumeBits_blindToHost (bpp : Nat) : BlindToHost moves m (consumeBits bpp) := by
  intro s
  have hbits : (s.withHost moves m).bitsRemaining = s.bitsRemaining := rfl
  by_cases h : bpp ≤ s.bitsRemaining.val <;> simp only [consumeBits, hbits, h, if_true, if_false] <;> rfl

theorem unpack_blindToHost (d : SubDepth) : BlindToHost moves m (unpack d) :=
  have fetchByte_blindToHost : BlindToHost moves m fetchByte :=
    rdu8_blindToHost.bind fun _ => .bind .update fun _ => .update
  .iteState (fun _ => fetchByte_blindToHost.bind fun _ => consumeBits_blindToHost _) fun _ => consumeBits_blindToHost _

theorem lookup_blindToHost (index : Nat) : BlindToHost moves m (lookup index) :=
  .iteState (op₁ := fun _ => raise .paletteIndexRange index) (op₂ := fun _ => ask fun s => s.palEntry index)
    (fun _ => .raise _ _) fun _ => .ask

theorem pixelOp_blindToHost (f : PixelFormat) : BlindToHost moves m (pixelOp f) := by
  cases f with
  | p1 | p2 | p4 => exact (unpack_blindToHost _).bind lookup_blindToHost
  | p8 => exact rdu8_blindToHost.bind fun _ => .bind .update fun _ => lookup_blindToHost _
  | p16 => exact (cursorRead_blindToHost 2).bind fun _ => .bind .update fun _ => .ask
  | p24 =>
    exact rdu8_blindToHost.bind fun _ => rdu8_blindToHost.bind fun _ => rdu8_blindToHost.bind fun _ =>
      .bind .update fun _ => .pure _
  | p32 =>
    exact rdu8_blindToHost.bind fun _ => rdu8_blindToHost.bind fun _ => rdu8_blindToHost.bind fun _ =>
      rdu8_blindToHost.bind fun _ => .bind .update fun _ => .pure _

/-! ### The header steps -/

theorem stepSig_blindToHost : BlindToHost moves m stepSig := by
  refine (cursorRead_blindToHost 2).bind fun text => ?_
  split
  · exact .raise _ _
  · exact .update

theorem readField32_blindToHost (write : U32 → Metadata → Metadata) (next : BitVec 5) :
    BlindToHost moves m (readField32 write next) :=
  rdu32_blindToHost.bind fun _ => .bind .update fun _ => .update

theorem readField16_blindToHost (write : U16 → Metadata → Metadata) (next : BitVec 5) :
    BlindToHost moves m (readField16 write next) :=
  (cursorRead_blindToHost 2).bind fun _ => .bind .update fun _ => .update

theorem stepReserved_blindToHost : BlindToHost moves m stepReserved := rdu32_blindToHost.bind fun _ => .update

theorem stepColors_blindToHost : BlindToHost moves m stepColors :=
  rdu32_blindToHost.bind fun _ => .bind .update fun _ => .update

theorem stepImpcolors_blindToHost : BlindToHost moves m stepImpcolors :=
  rdu32_blindToHost.bind fun _ => .bind .update fun _ => .update

theorem readPaletteEntries_blindToHost (n i : Nat) : BlindToHost moves m (readPaletteEntries n i) := by
  induction n generalizing i with
  | zero => exact .pure ()
  | succ n ih =>
    have entry : BlindToHost moves m (readPaletteEntry i) :=
      rdu8_blindToHost.bind fun _ => rdu8_blindToHost.bind fun _ => rdu8_blindToHost.bind fun _ =>
        (skip_blindToHost 1).bind fun _ => .update
    exact entry.bind fun _ => ih (i + 1)

theorem stepPalette_blindToHost : BlindToHost moves m stepPalette :=
  .iteState (fun _ => Blind.bind .update fun _ => (readPaletteEntries_blindToHost _ 0).bind fun _ => .update)
    fun _ => Blind.bind .update fun _ => .update

theorem stepMasks_blindToHost : BlindToHost moves m stepMasks :=
  .iteState
    (fun _ => rdu32_blindToHost.bind fun _ => .bind .update fun _ => rdu32_blindToHost.bind fun _ =>
      .bind .update fun _ => rdu32_blindToHost.bind fun _ => .bind .update fun _ => .update)
    fun _ => Blind.bind .update fun _ => .update

/-! ### The decoder control steps -/

theorem stepChkcomp_blindToHost : BlindToHost moves m stepChkcomp :=
  .iteState (op₁ := fun _ => goto Phase.dChkdepth) (fun _ => .update) fun _ => .raise _ _

theorem stepChkdepth_blindToHost : BlindToHost moves m stepChkdepth :=
  .iteState (op₁ := fun _ => goto Phase.dSeek) (fun _ => .update) fun _ => .raise _ _

theorem stepSeek_blindToHost : BlindToHost moves m stepSeek :=
  fun s => ((seek_blindToHost s.dataOffset.toNat).bind fun _ => .update) s

theorem leaveRow_withHost (s : State) : leaveRow (s.withHost moves m) = (leaveRow s).withHost moves m := by
  by_cases h : s.row = 0
  · rw [leaveRow_lastRow h, leaveRow_lastRow (s := s.withHost moves m) h]
    rfl
  · rw [leaveRow_nextRow h, leaveRow_nextRow (s := s.withHost moves m) h]
    rfl

theorem stepRowend_blindToHost : BlindToHost moves m stepRowend :=
  fun s => ((skip_blindToHost (padBytes s.rowBytes)).bind fun _ => .bind .update fun _ => .update leaveRow_withHost) s

/-! ### Every sequencer step -/

/-- The meaning does the same, whatever the host has lined up and presents. -/
def IgnoresHost (moves : List HostInput) (m : Memory) (run : State → Out) : Prop :=
  ∀ s, run (s.withHost moves m) = mapNext (State.withHost moves m) (run s)

theorem runStep_ignoresHost {op : Op Unit} (hop : BlindToHost moves m op) (code : BitVec 5) :
    IgnoresHost moves m fun s => .next (runStep code op s) := by
  intro s
  simp only [runStep, hop s, mapNext]
  cases op s <;> rfl

theorem allocOutput_withHost (s : State) : allocOutput (s.withHost moves m) = (allocOutput s).withHost moves m := by
  by_cases h : s.height = 0
  · rw [allocOutput_noRows h, allocOutput_noRows (s := s.withHost moves m) h]
    rfl
  · rw [allocOutput_rows h, allocOutput_rows (s := s.withHost moves m) h]
    rfl

theorem execDAlloc_ignoresHost : IgnoresHost moves m execDAlloc := by
  intro s
  cases h : outputFits s.pixelCount with
  | true =>
    rw [execDAlloc_fits h, execDAlloc_fits (s := s.withHost moves m) h, allocOutput_withHost]
    rfl
  | false =>
    rw [execDAlloc_refused h, execDAlloc_refused (s := s.withHost moves m) h]
    rfl

theorem storePixel_ignoresHost (p : Rgba8) : IgnoresHost moves m (storePixel p) := by
  intro s
  have hout : (s.withHost moves m).out = s.out := rfl
  have hindex : (s.withHost moves m).outIndex = s.outIndex := rfl
  simp only [storePixel, hout, hindex]
  cases s.out with
  | none => rfl
  | some st =>
    dsimp only
    split <;> rfl

theorem execDPixel_ignoresHost : IgnoresHost moves m execDPixel := by
  intro s
  have hdepth : (s.withHost moves m).bitsPerPixel = s.bitsPerPixel := rfl
  simp only [execDPixel, hdepth]
  cases formatOfDepth s.bitsPerPixel with
  | none => rfl
  | some f =>
    simp only [pixelOp_blindToHost f s]
    cases pixelOp f s with
    | ok p t => exact storePixel_ignoresHost p t
    | error r t => rfl

/-- The operations with a phase code are the sequencer steps (R106). -/
theorem exec_ignoresHost {i : Instr} {code : BitVec 5} (hi : encode i = some (.ph code)) :
    IgnoresHost moves m (exec i) := by
  cases i with
  | hSig => exact runStep_ignoresHost stepSig_blindToHost _
  | hReserved => exact runStep_ignoresHost stepReserved_blindToHost _
  | hFilesize | hDataoffset | hDibsize | hWidth | hHeight | hCompression | hDatasize | hResh | hResv =>
    exact runStep_ignoresHost (readField32_blindToHost _ _) _
  | hPlanes | hBpp => exact runStep_ignoresHost (readField16_blindToHost _ _) _
  | hColors => exact runStep_ignoresHost stepColors_blindToHost _
  | hImpcolors => exact runStep_ignoresHost stepImpcolors_blindToHost _
  | hPalette => exact runStep_ignoresHost stepPalette_blindToHost _
  | hMasks => exact runStep_ignoresHost stepMasks_blindToHost _
  | dChkcomp => exact runStep_ignoresHost stepChkcomp_blindToHost _
  | dChkdepth => exact runStep_ignoresHost stepChkdepth_blindToHost _
  | dSeek => exact runStep_ignoresHost stepSeek_blindToHost _
  | dAlloc => exact execDAlloc_ignoresHost
  | dRowstart | dFinish => exact fun _ => rfl
  | dPixel => exact execDPixel_ignoresHost
  | dRowend => exact runStep_ignoresHost stepRowend_blindToHost _
  | _ => simp [encode] at hi

end Sys2Proof.Machine

namespace Sys2Proof.Statements
open Sys2Proof.Machine

/-- Settles O7: the step that `phase` names is fetched whatever the host has lined up, and it ignores the host's
fields. -/
theorem hostCannotAffectARun : Obligations.HostCannotAffectARun := by
  intro s moves m hunit hlow hhigh
  obtain ⟨i, hdecode⟩ := (decodePH_isOk_iff s.phase).mpr ⟨hlow, hhigh⟩
  have hrest := atRest_of_decodePH hdecode
  have hstep : step s = exec i s := step_of_fetch (fetch_phase hunit hrest) hdecode
  have hstep' : step (s.withHost moves m) = exec i (s.withHost moves m) :=
    step_of_fetch (fetch_phase hunit hrest) hdecode
  exact hstep'.trans (hstep ▸ exec_ignoresHost (encode_of_decodePH hdecode) s)

end Sys2Proof.Statements
end

section
/-! The host commands (R251 to R257): what their words select, what each does, and when a read is answered. -/
namespace Sys2Proof

/-! ### Words of format HC (R107) -/

theorem decodeHC_reset {cmd : BitVec 35} (h : opField cmd = 0) : decodeHC cmd = .reset := by simp [decodeHC, h]

theorem decodeHC_start {cmd : BitVec 35} (h : opField cmd = 1) : decodeHC cmd = .start := by simp [decodeHC, h]

theorem decodeHC_rdreg {cmd : BitVec 35} (h : opField cmd = 2) : decodeHC cmd = .rdreg (cmd.toNat % 2 ^ 32) := by
  simp [decodeHC, h, argField_eq_mod]

theorem decodeHC_rdpal {cmd : BitVec 35} (h : opField cmd = 3) : decodeHC cmd = .rdpal (cmd.toNat % 2 ^ 32) := by
  simp [decodeHC, h, argField_eq_mod]

theorem decodeHC_rdout {cmd : BitVec 35} (h : opField cmd = 4) : decodeHC cmd = .rdout (cmd.toNat % 2 ^ 32) := by
  simp [decodeHC, h, argField_eq_mod]

end Sys2Proof

namespace Sys2Proof.Machine
open Sys2Proof.Statements

variable {s : State} {n i v : Nat} {p : Rgba8}

/-! ### What the host does outside a run (R251, R259) -/

theorem fetchHost_present {m : Memory} {rest : List HostInput} (h : s.inputs = .present m :: rest) :
    fetchHost s = .presented { s with source := m, inputs := rest } := by rw [fetchHost, h]

theorem fetchHost_nothing (h : s.inputs = []) : fetchHost s = .nothing := by rw [fetchHost, h]

/-! ### START and RESET (R252, R253) -/

theorem execStart_idle (h : s.status = .idle) : execStart s = .next (startSession s) := if_pos h

theorem execStart_refused (h : s.status ≠ .idle) : execStart s = .refused .startOutsideIdle := if_neg h

theorem running_eq_true_iff {st : Status} : st.running = true ↔ st = .parsing ∨ st = .decoding := by
  cases st <;> decide

theorem running_eq_false_iff {st : Status} : st.running = false ↔ st = .idle ∨ st = .done ∨ st = .failed := by
  cases st <;> decide

theorem execReset_next (h : s.status.running = false) : execReset s = .next (resetRegisters s) := by
  rw [execReset, h]; rfl

theorem execReset_refused (h : s.status.running = true) : execReset s = .refused .resetDuringRun := if_pos h

/-! ### The answers to reads (R254 to R256) -/

theorem execRdreg_of_some (h : readRegister n s = some v) : execRdreg n s = .next (answered (.number v) s) := by
  rw [execRdreg, h]; rfl

theorem execRdreg_of_none (h : readRegister n s = none) : execRdreg n s = .refused .unreadableRegister := by
  rw [execRdreg, h]

theorem execRdpal_of_some (h : readPalette i s = some p) : execRdpal i s = .next (answered (.pixel p) s) := by
  rw [execRdpal, h]; rfl

theorem execRdpal_of_none (h : readPalette i s = none) : execRdpal i s = .refused .unreadablePaletteEntry := by
  rw [execRdpal, h]

theorem execRdout_of_some (h : readOutput i s = some p) : execRdout i s = .next (answered (.pixel p) s) := by
  rw [execRdout, h]; rfl

theorem execRdout_of_none (h : readOutput i s = none) : execRdout i s = .refused .unreadablePixel := by
  rw [execRdout, h]

/-! ### Which registers can be read (R254, R53) -/

theorem readRegister_status (s : State) : readRegister 0 s = some s.status.code := rfl

theorem readRegister_err (hn : n = 1 ∨ n = 2 ∨ n = 3 ∨ n = 22) (s : State) :
    readRegister n s = if s.status = .failed then s.err.bind fun e => errRegister e n else none := by
  have h0 : n ≠ 0 := by omega
  rw [readRegister, if_neg h0, if_pos hn]

theorem readRegister_metadata (hlow : 4 ≤ n) (hhigh : n ≤ 16) (s : State) :
    readRegister n s = if s.mdValid then metadataRegister s.md n else none := by
  have h0 : n ≠ 0 := by omega
  have herr : ¬ (n = 1 ∨ n = 2 ∨ n = 3 ∨ n = 22) := by omega
  rw [readRegister, if_neg h0, if_neg herr, if_pos ⟨hlow, hhigh⟩]

theorem readRegister_mask (hlow : 17 ≤ n) (hhigh : n ≤ 19) (s : State) :
    readRegister n s = if s.mdValid ∧ depthIs s.md hasMasks then maskRegister s.md n else none := by
  have h0 : n ≠ 0 := by omega
  have herr : ¬ (n = 1 ∨ n = 2 ∨ n = 3 ∨ n = 22) := by omega
  have hmd : ¬ (4 ≤ n ∧ n ≤ 16) := by omega
  rw [readRegister, if_neg h0, if_neg herr, if_neg hmd, if_pos ⟨hlow, hhigh⟩]

theorem readRegister_prof (hn : n = 20 ∨ n = 21) (s : State) :
    readRegister n s = if s.status = .done then s.prof.bind fun p => profRegister p n else none := by
  rcases hn with rfl | rfl <;> rfl

theorem readRegister_pos (s : State) :
    readRegister 23 s = if s.status.terminal then some s.pos else none := rfl

theorem readRegister_beyond (hn : 24 ≤ n) (s : State) : readRegister n s = none := by
  have h0 : n ≠ 0 := by omega
  have herr : ¬ (n = 1 ∨ n = 2 ∨ n = 3 ∨ n = 22) := by omega
  have hmd : ¬ (4 ≤ n ∧ n ≤ 16) := by omega
  have hmask : ¬ (17 ≤ n ∧ n ≤ 19) := by omega
  have hprof : ¬ (n = 20 ∨ n = 21) := by omega
  have hpos : n ≠ 23 := by omega
  rw [readRegister, if_neg h0, if_neg herr, if_neg hmd, if_neg hmask, if_neg hprof, if_neg hpos]

/-! ### What RDREG answers (R254) -/

theorem code_of_mem {st : Status}
    (h : (st, v) ∈ [(Status.idle, 0), (.parsing, 1), (.decoding, 2), (.done, 3), (.failed, 4)]) : v = st.code := by
  cases st <;> simpa [Status.code] using h

theorem errCode_of_mem {kind : ErrKind}
    (h : (kind, v) ∈ [(ErrKind.formatError, 1), (.unsupportedCompression, 2), (.unsupportedDepth, 3),
      (.outOfBounds, 4), (.paletteIndexRange, 5)]) : v = kind.code := by
  cases kind <;> simpa [ErrKind.code] using h

/-- A number of the fault record is answered in `FAILED`. -/
theorem rdreg_err {e : ErrRecord} (hstatus : s.status = .failed) (he : s.err = some e)
    (hv : errRegister e n = some v) (hn : n = 1 ∨ n = 2 ∨ n = 3 ∨ n = 22 := by decide) :
    execRdreg n s = .next (answered (.number v) s) := by
  refine execRdreg_of_some ?_
  rw [readRegister_err hn, if_pos hstatus, he]
  exact hv

theorem rdreg_err_refused (hstatus : s.status ≠ .failed)
    (hn : n = 1 ∨ n = 2 ∨ n = 3 ∨ n = 22 := by decide) : execRdreg n s = .refused .unreadableRegister :=
  execRdreg_of_none ((readRegister_err hn s).trans (if_neg hstatus))

/-- A written metadata register is answered once the metadata are complete (R40). -/
theorem rdreg_metadata {w : Nat} {reg : Option (BitVec w)} {value : BitVec w} (hvalid : s.mdValid = true)
    (hvalue : reg = some value) (hreg : metadataRegister s.md n = reg.map BitVec.toNat)
    (hlow : 4 ≤ n := by decide) (hhigh : n ≤ 16 := by decide) :
    execRdreg n s = .next (answered (.number value.toNat) s) := by
  refine execRdreg_of_some ?_
  rw [readRegister_metadata hlow hhigh, if_pos hvalid, hreg, hvalue]
  rfl

/-- The depth, where the condition asks for it, has been written. -/
theorem depthIs_iff {md : Metadata} {test : U16 → Bool} :
    depthIs md test = true ↔ ∃ bpp, md.bitsPerPixel = some bpp ∧ test bpp = true := by
  unfold depthIs
  cases md.bitsPerPixel <;> simp

theorem depthIs_hasMasks_iff {md : Metadata} : depthIs md hasMasks = true ↔ md.bitsPerPixel = some 16 := by
  have h16 : ∀ bpp : U16, hasMasks bpp = true ↔ bpp = 16 := fun bpp => by
    rw [hasMasks, decide_eq_true_iff, ← BitVec.toNat_inj]
    rfl
  simp [depthIs_iff, h16]

/-- A mask is answered at depth 16 (R38). -/
theorem rdreg_mask {reg : Option U32} {value : U32} (hvalid : s.mdValid = true) (hdepth : s.md.bitsPerPixel = some 16)
    (hvalue : reg = some value) (hreg : maskRegister s.md n = reg.map BitVec.toNat)
    (hlow : 17 ≤ n := by decide) (hhigh : n ≤ 19 := by decide) :
    execRdreg n s = .next (answered (.number value.toNat) s) := by
  refine execRdreg_of_some ?_
  rw [readRegister_mask hlow hhigh, if_pos ⟨hvalid, depthIs_hasMasks_iff.mpr hdepth⟩, hreg, hvalue]
  rfl

theorem rdreg_mask_refused (hdepth : s.md.bitsPerPixel ≠ some 16) (hlow : 17 ≤ n) (hhigh : n ≤ 19) :
    execRdreg n s = .refused .unreadableRegister :=
  execRdreg_of_none ((readRegister_mask hlow hhigh s).trans
    (if_neg fun h => hdepth (depthIs_hasMasks_iff.mp h.2)))

/-- Neither metadata nor masks are answered before the end of the parse (R40). -/
theorem rdreg_incomplete_refused (hvalid : s.mdValid = false) (hlow : 4 ≤ n) (hhigh : n ≤ 19) :
    execRdreg n s = .refused .unreadableRegister := by
  refine execRdreg_of_none ?_
  by_cases hmask : 17 ≤ n
  · simp [readRegister_mask hmask hhigh, hvalid]
  · simp [readRegister_metadata hlow (by omega), hvalid]

/-- A number of the profiling record is answered in `DONE`, if the record is present (R48). -/
theorem rdreg_prof {prof : Prof} (hstatus : s.status = .done) (hprof : s.prof = some prof)
    (hv : profRegister prof n = some v) (hn : n = 20 ∨ n = 21 := by decide) :
    execRdreg n s = .next (answered (.number v) s) := by
  refine execRdreg_of_some ?_
  rw [readRegister_prof hn, if_pos hstatus, hprof]
  exact hv

theorem rdreg_prof_refused (h : s.status ≠ .done ∨ s.prof = none) (hn : n = 20 ∨ n = 21 := by decide) :
    execRdreg n s = .refused .unreadableRegister := by
  refine execRdreg_of_none ?_
  rcases h with h | h <;> simp [readRegister_prof hn, h]

theorem terminal_eq_true_iff {st : Status} : st.terminal = true ↔ st = .done ∨ st = .failed := by
  cases st <;> decide

theorem rdreg_pos (h : s.status = .done ∨ s.status = .failed) :
    execRdreg 23 s = .next (answered (.number s.pos) s) :=
  execRdreg_of_some ((readRegister_pos s).trans (if_pos (terminal_eq_true_iff.mpr h)))

theorem rdreg_pos_refused (hdone : s.status ≠ .done) (hfailed : s.status ≠ .failed) :
    execRdreg 23 s = .refused .unreadableRegister :=
  execRdreg_of_none ((readRegister_pos s).trans
    (if_neg fun h => (terminal_eq_true_iff.mp h).elim hdone hfailed))

/-! ### What RDPAL and RDOUT answer (R255, R256) -/

theorem paletteStored_iff : paletteStored i = true ↔ i < Config.palCap := by
  have hcap : 256 ≤ Config.palCap := Nat.le_add_right _ _
  simp only [paletteStored, Bool.or_eq_true, decide_eq_true_eq]
  omega

theorem readPalette_eq_some_iff :
    readPalette i s = some p ↔
      s.mdValid = true ∧ (∃ bpp, s.md.bitsPerPixel = some bpp ∧ bpp.toNat ≤ 8) ∧ i < s.colorsCount.toNat ∧
        i < Config.palCap ∧ ∃ pal, s.pal = some pal ∧ pal.get i = some p := by
  simp only [readPalette, Option.ite_none_right_eq_some, Option.bind_eq_some_iff, depthIs_iff, hasPalette,
    decide_eq_true_eq, paletteStored_iff, and_assoc]

theorem readOutput_eq_some_iff :
    readOutput i s = some p ↔
      s.status = .done ∧ i < s.width.toNat * s.height.toNat ∧ ∃ st, s.out = some st ∧ st.get i = some p := by
  rw [readOutput, Option.ite_none_right_eq_some, Option.bind_eq_some_iff, State.pixelCount, and_assoc]

/-- RDPAL is refused as soon as one condition of R255 fails. -/
theorem readPalette_eq_none
    (h : s.mdValid = false ∨ s.md.bitsPerPixel = none ∨ (∃ bpp, s.md.bitsPerPixel = some bpp ∧ 8 < bpp.toNat) ∨
      (∃ colors, s.md.colorsCount = some colors ∧ colors.toNat ≤ i) ∨ Config.palCap ≤ i ∨ s.pal = none ∨
      ∃ pal, s.pal = some pal ∧ pal.get i = none) : readPalette i s = none := by
  refine Option.eq_none_iff_forall_ne_some.mpr fun p hp => ?_
  obtain ⟨hvalid, ⟨bpp, hbpp, hdepth⟩, hindex, hcap, pal, hpal, hget⟩ := readPalette_eq_some_iff.mp hp
  rcases h with h | h | ⟨bpp', h, hgt⟩ | ⟨colors, h, hle⟩ | h | h | ⟨pal', h, hnone⟩
  · simp [hvalid] at h
  · simp [hbpp] at h
  · rw [hbpp] at h
    cases h
    omega
  · rw [colorsCount_of_some h] at hindex
    omega
  · omega
  · simp [hpal] at h
  · rw [hpal] at h
    cases h
    simp [hget] at hnone

/-- RDOUT is refused as soon as one condition of R256 fails. -/
theorem readOutput_eq_none
    (h : s.status ≠ .done ∨ (∃ w h, s.md.width = some w ∧ s.md.height = some h ∧ w.toNat * h.toNat ≤ i) ∨
      s.out = none ∨ ∃ st, s.out = some st ∧ st.get i = none) : readOutput i s = none := by
  refine Option.eq_none_iff_forall_ne_some.mpr fun p hp => ?_
  obtain ⟨hdone, hindex, st, hout, hget⟩ := readOutput_eq_some_iff.mp hp
  rcases h with h | ⟨w, h, hw, hh, hle⟩ | h | ⟨st', h, hnone⟩
  · exact h hdone
  · rw [width_of_some hw, height_of_some hh] at hindex
    omega
  · simp [hout] at h
  · rw [hout] at h
    cases h
    simp [hget] at hnone

end Sys2Proof.Machine

namespace Sys2Proof.Statements
open Sys2Proof.Machine

/-- Settles O6: at rest a step takes the host's next move. -/
theorem stepAtRestTakesTheHostsMove : Obligations.StepAtRestTakesTheHostsMove := by
  intro s hunit hphase
  have hfetch := fetch_atRest hunit ((atRest_iff s.phase).mpr hphase)
  refine ⟨fun m rest hin => ?_, fun hin => ?_⟩
  · rw [step, hfetch, fetchHost_present hin]
  · rw [step, hfetch, fetchHost_nothing hin]

/-- Settles O36: START is one test of the status. -/
theorem startOpensASession : Obligations.StartOpensASession :=
  ⟨fun _ h => congrArg Except.ok (decodeHC_start h), fun _ => ⟨execStart_idle, execStart_refused⟩⟩

/-- Settles O37: outside a run RESET leads to `resetRegisters`, which a coherent `IDLE` state equals. -/
theorem resetRestoresEveryRegister : Obligations.ResetRestoresEveryRegister := by
  refine ⟨fun _ h => congrArg Except.ok (decodeHC_reset h), fun s =>
    ⟨fun hrun => ?_, fun hrest => ?_, fun hc hidle => ?_⟩⟩
  · exact execReset_refused (running_eq_true_iff.mpr hrun)
  · exact ⟨resetRegisters s, execReset_next (running_eq_false_iff.mpr hrest),
      by simp [Metadata.unwritten, Phase.idle]⟩
  · have hnext : execReset s = .next (resetRegisters s) := execReset_next (running_eq_false_iff.mpr (.inl hidle))
    exact hnext.trans (congrArg Host.Outcome.next (hc.idle hidle).symm)

/-- Settles O38: clause by clause, the rule of R254 for the group of the number. -/
theorem registerReads : Obligations.RegisterReads := by
  refine ⟨fun _ h => congrArg Except.ok (decodeHC_rdreg h), fun s => ⟨fun code hcode => ?status,
    fun e code hfailed he hcode => ?err, fun hfailed => ?noErr, fun hvalid => ?complete,
    fun hvalid _ => rdreg_incomplete_refused hvalid, fun p hdone hprof => ?prof, fun h => ?noProf,
    rdreg_pos, rdreg_pos_refused, fun _ hn => execRdreg_of_none (readRegister_beyond hn s)⟩⟩
  case status => exact execRdreg_of_some ((readRegister_status s).trans (congrArg some (code_of_mem hcode).symm))
  case err =>
    exact ⟨rdreg_err hfailed he (congrArg some (errCode_of_mem hcode).symm), rdreg_err hfailed he rfl,
      rdreg_err hfailed he rfl, rdreg_err hfailed he rfl⟩
  case noErr =>
    exact ⟨rdreg_err_refused hfailed, rdreg_err_refused hfailed, rdreg_err_refused hfailed,
      rdreg_err_refused hfailed⟩
  case complete =>
    refine ⟨fun _ h => rdreg_metadata hvalid h rfl, fun _ h => rdreg_metadata hvalid h rfl,
      fun _ h => rdreg_metadata hvalid h rfl, fun _ h => rdreg_metadata hvalid h rfl,
      fun _ h => rdreg_metadata hvalid h rfl, fun _ h => rdreg_metadata hvalid h rfl,
      fun _ h => rdreg_metadata hvalid h rfl, fun _ h => rdreg_metadata hvalid h rfl,
      fun _ h => rdreg_metadata hvalid h rfl, fun _ h => rdreg_metadata hvalid h rfl,
      fun _ h => rdreg_metadata hvalid h rfl, fun _ h => rdreg_metadata hvalid h rfl,
      fun _ h => rdreg_metadata hvalid h rfl, fun hdepth => ?_, fun hdepth _ => rdreg_mask_refused hdepth⟩
    exact ⟨fun _ h => rdreg_mask hvalid hdepth h rfl, fun _ h => rdreg_mask hvalid hdepth h rfl,
      fun _ h => rdreg_mask hvalid hdepth h rfl⟩
  case prof => exact ⟨rdreg_prof hdone hprof rfl, rdreg_prof hdone hprof rfl⟩
  case noProf => exact ⟨rdreg_prof_refused h, rdreg_prof_refused h⟩

/-- Settles O39: the capacity is `PAL_CAP`; a read is answered if every condition of its rule holds, and refused as soon
as one fails. -/
theorem paletteAndPixelReads : Obligations.PaletteAndPixelReads := by
  refine ⟨fun _ h => congrArg Except.ok (decodeHC_rdpal h), fun _ h => congrArg Except.ok (decodeHC_rdout h),
    ⟨Config.palCap, Nat.le_add_right _ _, fun s i => ⟨?_, fun h => execRdpal_of_none (readPalette_eq_none h)⟩⟩,
    fun s i => ⟨?_, fun h => execRdout_of_none (readOutput_eq_none h)⟩⟩
  · intro bpp colors pal p hvalid hbpp hdepth hcolors hindex hcap hpal hget
    have hindex' : i < s.colorsCount.toNat := colorsCount_of_some hcolors ▸ hindex
    exact execRdpal_of_some
      (readPalette_eq_some_iff.mpr ⟨hvalid, ⟨bpp, hbpp, hdepth⟩, hindex', hcap, pal, hpal, hget⟩)
  · intro w h st p hdone hw hh hindex hout hget
    rw [← width_of_some hw, ← height_of_some hh] at hindex
    exact execRdout_of_some (readOutput_eq_some_iff.mpr ⟨hdone, hindex, st, hout, hget⟩)

end Sys2Proof.Statements
end

section
/-! The faults of the operations (R270 to R281): what an operation has done when it raises, and why it raises, said once
for every operation. What is told of a step that ends in `FAILED` follows from these two. -/
namespace Sys2Proof.Machine
open Sys2Proof.Statements

variable {α : Type} {s t : State} {i : Instr} {r : Raise} {kind : ErrKind}

/-! ### What has been done when a fault is raised (R281) -/

/-- In `t` the operation `i`, begun in `s`, can raise a fault of `kind`: it has moved the cursor forward at most, in
H_MASKS written masks, in H_PALETTE palette entries, and before a PaletteIndexRange fetched a byte or none. -/
structure State.AtFault (s : State) (i : Instr) (kind : ErrKind) (t : State) : Prop where
  control : t.control = s.control
  forward : s.pos ≤ t.pos
  fields  : { t.md with maskR := s.md.maskR, maskG := s.md.maskG, maskB := s.md.maskB } = s.md
  masks   : i ≠ .hMasks → t.md = s.md
  palette : i ≠ .hPalette → t.pal = s.pal
  unit    : kind ≠ .paletteIndexRange →
    t.rowBytes = s.rowBytes ∧ t.bitsRemaining = s.bitsRemaining ∧ t.currentByte = s.currentByte
  fetched : kind = .paletteIndexRange →
    ∃ n, n ≤ 1 ∧ t.pos = s.pos + n ∧ t.rowBytes = s.rowBytes + n ∧
      (t.currentByte = s.currentByte ∨ n = 1 ∧ t.currentByte = s.buf.byteAt s.pos)

/-- A register that the view `State.control` shows; that it does is seen by `rfl`. -/
theorem State.AtFault.same (h : s.AtFault i kind t) (register : State → α)
    (hshown : ∀ s, register s.control = register s := by intro _; rfl) : register t = register s := by
  rw [← hshown t, h.control, hshown s]

theorem State.AtFault.notFailed (h : s.AtFault i kind t) (hs : s.status ≠ .failed) : t.status ≠ .failed :=
  h.same State.status ▸ hs

theorem State.AtFault.colorsCount (h : s.AtFault i kind t) : t.colorsCount = s.colorsCount := by
  have hcolors : t.md.colorsCount = s.md.colorsCount := by rw [← h.fields]
  rw [State.colorsCount, State.colorsCount, h.same State.draws, hcolors]

/-- Before any fault but PaletteIndexRange: the cursor has moved forward, and nothing else. -/
theorem atFault_moved {p : Nat} (hkind : kind ≠ .paletteIndexRange) (hp : s.pos ≤ p) :
    s.AtFault i kind { s with pos := p } where
  control := rfl
  forward := hp
  fields := rfl
  masks _ := rfl
  palette _ := rfl
  unit _ := ⟨rfl, rfl, rfl⟩
  fetched h := absurd h hkind

theorem atFault_begin (hkind : kind ≠ .paletteIndexRange) : s.AtFault i kind s := atFault_moved hkind (Nat.le_refl _)

/-- The pixel unit has fetched `n` bytes, one or none. -/
theorem atFault_fetched {n : Nat} {byte : Byte} {bits : Fin 9} (hn : n ≤ 1)
    (hbyte : byte = s.currentByte ∨ n = 1 ∧ byte = s.buf.byteAt s.pos) :
    s.AtFault i .paletteIndexRange
      { s with pos := s.pos + n, rowBytes := s.rowBytes + n, currentByte := byte, bitsRemaining := bits } where
  control := rfl
  forward := Nat.le_add_right _ _
  fields := rfl
  masks _ := rfl
  palette _ := rfl
  unit h := absurd rfl h
  fetched _ := ⟨n, hn, rfl, rfl, hbyte⟩

/-! ### Why a fault is raised (R271 to R275) -/

/-- The operations that look a palette entry up (R275). -/
def LooksUp (i : Instr) : Prop := i = .px1 ∨ i = .px2 ∨ i = .px4 ∨ i = .px8 ∨ i = .dPixel ∨ ∃ n, i = .lookup n

/-- The operation `i`, begun in `s`, has cause to raise the fault. -/
inductive FaultCause (s : State) : Instr → Raise → Prop
  | missing {i : Instr} {info : Nat} (hi : accessesBuffer i = true) (h : s.buf.len < info) :
    FaultCause s i ⟨.outOfBounds, info⟩
  | signature (hlen : s.pos + 2 ≤ s.buf.len)
    (h : ¬ (s.buf.byteAt s.pos = 0x42 ∧ s.buf.byteAt (s.pos + 1) = 0x4D)) :
    FaultCause s .hSig ⟨.formatError, num16 s s.pos⟩
  | compression (h : ¬ compressionSupported s.compression = true) :
    FaultCause s .dChkcomp ⟨.unsupportedCompression, s.compression.toNat⟩
  | depth (h : ¬ (formatOfDepth s.bitsPerPixel).isSome = true) :
    FaultCause s .dChkdepth ⟨.unsupportedDepth, s.bitsPerPixel.toNat⟩
  | index {i : Instr} {n : Nat} (hi : LooksUp i) (h : s.colorsCount.toNat ≤ n) :
    FaultCause s i ⟨.paletteIndexRange, n⟩

/-! ### How an operation ends -/

/-- `i`, begun in `s`, has ended well, the status not `FAILED`, or raises with cause. -/
def FaultsWithCause (s : State) (i : Instr) : EStateM.Result Raise State α → Prop
  | .ok _ t => t.status ≠ .failed
  | .error r t => s.AtFault i r.kind t ∧ FaultCause s i r

/-- If `i`, begun in `s`, has ended in `FAILED`, it is by a fault raised with cause and taken in the step of `i`. -/
def FaultTaken (s : State) (i : Instr) (t : State) : Prop :=
  t.status = .failed →
    ∃ r s', t = takeFault r (faultStep i s) s' ∧ s.AtFault i r.kind s' ∧ FaultCause s i r

theorem faultTaken_of_status (h : t.status ≠ .failed) : FaultTaken s i t := fun ht => absurd ht h

theorem runStep_faultTaken {op : Op Unit} {code : BitVec 5} (h : FaultsWithCause s i (op s))
    (hcode : faultStep i s = code) : FaultTaken s i (runStep code op s) := by
  subst hcode
  cases hr : op s with
  | ok u t => rw [hr] at h; rw [runStep_ok _ hr]; exact faultTaken_of_status h
  | error r t => rw [hr] at h; rw [runStep_error _ hr]; exact fun _ => ⟨r, t, rfl, h⟩

/-- A unit's operation run by itself faults in the step in progress (R280). -/
theorem runUnit_faultTaken {op : Op α} {result : α → Result} (h : FaultsWithCause s i (op s))
    (hi : faultStep i s = s.phase) : FaultTaken s i (runUnit (op >>= fun v => pure (result v)) s) := by
  cases hr : op s with
  | ok v t =>
    rw [hr] at h
    rw [runUnit_ok (op_bind_ok (f := fun v => pure (result v)) hr)]
    exact faultTaken_of_status h
  | error r t =>
    rw [hr] at h
    rw [runUnit_error (op_bind_error (f := fun v => pure (result v)) hr), ← hi]
    exact fun _ => ⟨r, t, rfl, h⟩

/-! ### Reading on

Between its reads an operation can raise nothing but OutOfBounds. -/

/-- The operation reads on: it changes nothing that a fault of `i` could not have changed, and raises OutOfBounds
only. -/
abbrev ReadsOn (s : State) (i : Instr) (op : Op α) : Prop :=
  Keeps (s.AtFault i .outOfBounds) (fun r => r.kind = .outOfBounds ∧ FaultCause s i r) op

/-- From where `i` has read on, the operation ends well or raises with cause. -/
def FaultsReading (s : State) (i : Instr) (op : Op α) : Prop :=
  ∀ t, s.AtFault i .outOfBounds t → FaultsWithCause s i (op t)

theorem FaultsReading.bind {β : Type} {m : Op α} {f : α → Op β} (hm : ReadsOn s i m)
    (hf : ∀ a, FaultsReading s i (f a)) : FaultsReading s i (m >>= f) := by
  intro t ht
  have h := hm t ht
  rw [op_bind]
  cases hr : m t with
  | ok a t' => rw [hr] at h; exact hf a t' h
  | error r t' =>
    rw [hr] at h
    obtain ⟨hat, hkind, hcause⟩ := h
    exact ⟨hkind ▸ hat, hcause⟩

/-- What follows the reads and raises nothing, nor sets the status to `FAILED`. -/
theorem FaultsReading.ofStatus {op : Op α} (hs : s.status ≠ .failed)
    (hop : ∀ t, t.status ≠ .failed → FaultsWithCause s i (op t)) : FaultsReading s i op :=
  fun t ht => hop t (ht.notFailed hs)

theorem FaultsReading.begin {op : Op α} (h : FaultsReading s i op) : FaultsWithCause s i (op s) :=
  h s (atFault_begin nofun)

theorem State.AtFault.moveTo {p : Nat} (h : s.AtFault i .outOfBounds t) (hp : t.pos ≤ p) :
    s.AtFault i .outOfBounds { t with pos := p } where
  control := h.control
  forward := h.forward.trans hp
  fields := h.fields
  masks := h.masks
  palette := h.palette
  unit := h.unit
  fetched := nofun

theorem cursorRead_readsOn (hi : accessesBuffer i = true) (n : Nat) (value : State → α) :
    ReadsOn s i (cursorRead n value) := by
  intro t ht
  by_cases h : t.pos + n ≤ t.buf.len
  · rw [cursorRead_ok n value t h]
    exact ht.moveTo (Nat.le_add_right _ _)
  · rw [cursorRead_error n value t (Nat.lt_of_not_le h)]
    exact ⟨ht, rfl, .missing hi (ht.same State.buf ▸ Nat.lt_of_not_le h)⟩

theorem skip_readsOn (hi : accessesBuffer i = true) (n : Nat) : ReadsOn s i (skip n) := by
  intro t ht
  rw [skip_eq_seek]
  by_cases h : t.pos + n ≤ t.buf.len
  · rw [seek_ok _ t h]
    exact ht.moveTo (Nat.le_add_right _ _)
  · rw [seek_error _ t (Nat.lt_of_not_le h)]
    exact ⟨ht, rfl, .missing hi (ht.same State.buf ▸ Nat.lt_of_not_le h)⟩

theorem paletteWrite_readsOn (pal : State → Option PixelStore) :
    ReadsOn s .hPalette (update fun t => { t with pal := pal t }) :=
  .update fun _ h =>
    { control := h.control, forward := h.forward, fields := h.fields, masks := h.masks,
      palette := fun hne => absurd rfl hne, unit := h.unit, fetched := nofun }

/-- A write of masks; that the other metadata stay is seen by `rfl`. -/
theorem maskWrite_readsOn (write : Metadata → Metadata)
    (hwrite : ∀ md md' : Metadata, { write md with maskR := md'.maskR, maskG := md'.maskG, maskB := md'.maskB } =
      { md with maskR := md'.maskR, maskG := md'.maskG, maskB := md'.maskB } := by intro _ _; rfl) :
    ReadsOn s .hMasks (update fun t => { t with md := write t.md }) :=
  .update fun t h =>
    { control := h.control, forward := h.forward, fields := (hwrite t.md s.md).trans h.fields,
      masks := fun hne => absurd rfl hne, palette := h.palette, unit := h.unit, fetched := nofun }

/-! ### The pixel unit (R220 to R228) -/

theorem unpack_eq_consumeBits (d : SubDepth) (h : ¬ s.bitsRemaining = 0) : unpack d s = consumeBits (subBits d) s :=
  if_neg (by simpa [State.needByte] using h)

/-- UNPACK misses the byte to be fetched, or ends well, having fetched a byte or none. -/
theorem unpack_cases (d : SubDepth) (s : State) :
    (s.buf.len < s.pos + 1 ∧ unpack d s = .error ⟨.outOfBounds, s.pos + 1⟩ s) ∨
      ∃ index t, unpack d s = .ok index t ∧ ∀ i, s.AtFault i .paletteIndexRange t := by
  by_cases h0 : s.bitsRemaining = 0
  · by_cases hlen : s.pos + 1 ≤ s.buf.len
    · exact .inr ⟨_, _, unpack_fetch d s h0 hlen, fun _ => atFault_fetched (n := 1) (Nat.le_refl 1) (.inr ⟨rfl, rfl⟩)⟩
    · have hshort := Nat.lt_of_not_le hlen
      exact .inl ⟨hshort, unpack_error d s h0 hshort⟩
  · refine .inr ?_
    rw [unpack_eq_consumeBits d h0, consumeBits]
    split <;> exact ⟨_, _, rfl, fun _ => atFault_fetched (n := 0) (Nat.zero_le 1) (.inl rfl)⟩

theorem unpack_faultsWithCause (hi : accessesBuffer i = true) (hs : s.status ≠ .failed) (d : SubDepth) :
    FaultsWithCause s i (unpack d s) := by
  obtain ⟨hshort, hop⟩ | ⟨index, t, hop, hat⟩ := unpack_cases d s <;> rw [hop]
  · exact ⟨atFault_begin nofun, .missing hi hshort⟩
  · exact (hat i).notFailed hs

theorem lookup_faultsWithCause (hi : LooksUp i) (hs : s.status ≠ .failed) (h : s.AtFault i .paletteIndexRange t)
    (index : Nat) : FaultsWithCause s i (lookup index t) := by
  by_cases hlt : index < t.colorsCount.toNat
  · rw [lookup_ok index t hlt]
    exact h.notFailed hs
  · have hge := Nat.le_of_not_lt hlt
    rw [lookup_error index t hge]
    exact ⟨h, .index hi (h.colorsCount ▸ hge)⟩

theorem unpackLookup_faultsWithCause (hacc : accessesBuffer i = true) (hi : LooksUp i) (hs : s.status ≠ .failed)
    (d : SubDepth) : FaultsWithCause s i ((unpack d >>= lookup) s) := by
  obtain ⟨hshort, hop⟩ | ⟨index, t, hop, hat⟩ := unpack_cases d s
  · rw [op_bind_error hop]
    exact ⟨atFault_begin nofun, .missing hacc hshort⟩
  · rw [op_bind_ok hop]
    exact lookup_faultsWithCause hi hs (hat i) index

theorem px8_faultsWithCause (hacc : accessesBuffer i = true) (hi : LooksUp i) (hs : s.status ≠ .failed) :
    FaultsWithCause s i (px8 s) := by
  by_cases hlen : s.pos + 1 ≤ s.buf.len
  · rw [px8_eq_lookup hlen]
    exact lookup_faultsWithCause hi hs (atFault_fetched (n := 1) (Nat.le_refl 1) (.inl rfl)) _
  · have hshort := Nat.lt_of_not_le hlen
    rw [px8_error hshort]
    exact ⟨atFault_begin nofun, .missing hacc hshort⟩

/-- A pixel operation of at most 8 bits looks its pixel up, run by itself or in D_PIXEL. -/
theorem looksUp_of_formatBits {f : PixelFormat} (hi : i = pixelInstr f ∨ i = .dPixel) (hf : formatBits f ≤ 8) :
    LooksUp i := by
  obtain rfl | rfl := hi
  · cases f with
    | p1 | p2 | p4 | p8 => simp [LooksUp, pixelInstr]
    | p16 | p24 | p32 => exact absurd hf (by decide)
  · simp [LooksUp]

/-- A pixel operation, run by itself or in D_PIXEL. -/
theorem pixelOp_faultsWithCause {f : PixelFormat} (hi : i = pixelInstr f ∨ i = .dPixel) (hs : s.status ≠ .failed) :
    FaultsWithCause s i (pixelOp f s) := by
  have hacc : accessesBuffer i = true := by rcases hi with rfl | rfl <;> cases f <;> rfl
  have byte : ReadsOn s i rdu8 := cursorRead_readsOn hacc 1 _
  cases f with
  | p1 => exact unpackLookup_faultsWithCause hacc (looksUp_of_formatBits hi (by decide)) hs .d1
  | p2 => exact unpackLookup_faultsWithCause hacc (looksUp_of_formatBits hi (by decide)) hs .d2
  | p4 => exact unpackLookup_faultsWithCause hacc (looksUp_of_formatBits hi (by decide)) hs .d4
  | p8 => exact px8_faultsWithCause hacc (looksUp_of_formatBits hi (by decide)) hs
  | p16 =>
    exact FaultsReading.begin (op := px16) (.bind (cursorRead_readsOn hacc 2 _) fun _ => .ofStatus hs fun _ h => h)
  | p24 =>
    exact FaultsReading.begin (op := px24)
      (.bind byte fun _ => .bind byte fun _ => .bind byte fun _ => .ofStatus hs fun _ h => h)
  | p32 =>
    exact FaultsReading.begin (op := px32)
      (.bind byte fun _ => .bind byte fun _ => .bind byte fun _ => .bind byte fun _ => .ofStatus hs fun _ h => h)

/-! ### The header steps -/

/-- A step that reads one field and then raises nothing. -/
theorem fieldStep_faultsWithCause {n : Nat} {value : State → α} {f : α → Op Unit} (hi : accessesBuffer i = true)
    (hs : s.status ≠ .failed) (hf : ∀ a t, t.status ≠ .failed → FaultsWithCause s i (f a t)) :
    FaultsWithCause s i ((cursorRead n value >>= f) s) :=
  (FaultsReading.bind (cursorRead_readsOn hi n value) fun a => .ofStatus hs (hf a)).begin

theorem stepSig_faultsWithCause (hs : s.status ≠ .failed) : FaultsWithCause s .hSig (stepSig s) := by
  by_cases hlen : s.pos + 2 ≤ s.buf.len
  · have hread : stepSig s = checkSignature (signatureText s) { s with pos := s.pos + 2 } :=
      op_bind_ok (f := checkSignature) (cursorRead_ok 2 _ s hlen)
    rw [hread]
    by_cases hBM : s.buf.byteAt s.pos = 0x42 ∧ s.buf.byteAt (s.pos + 1) = 0x4D
    · rw [checkSignature_ok hBM]
      exact hs
    · rw [checkSignature_error hBM]
      exact ⟨atFault_moved nofun (Nat.le_add_right _ _), .signature hlen hBM⟩
  · have hshort := Nat.lt_of_not_le hlen
    rw [stepSig, rdstr, op_bind_error (cursorRead_error 2 _ s hshort)]
    exact ⟨atFault_begin nofun, .missing rfl hshort⟩

theorem readPaletteEntries_readsOn (n k : Nat) : ReadsOn s .hPalette (readPaletteEntries n k) := by
  induction n generalizing k with
  | zero => exact .pure ()
  | succ n ih =>
    have byte : ReadsOn s .hPalette rdu8 := cursorRead_readsOn rfl 1 _
    have entry : ReadsOn s .hPalette (readPaletteEntry k) :=
      byte.bind fun _ => byte.bind fun _ => byte.bind fun _ => (skip_readsOn rfl 1).bind fun _ => paletteWrite_readsOn _
    exact entry.bind fun _ => ih (k + 1)

theorem stepPalette_faultsWithCause (hs : s.status ≠ .failed) : FaultsWithCause s .hPalette (stepPalette s) := by
  unfold stepPalette
  split
  · exact FaultsReading.begin (.bind (paletteWrite_readsOn _) fun _ =>
      .bind (readPaletteEntries_readsOn _ 0) fun _ => .ofStatus hs fun _ h => h)
  · exact hs

theorem stepMasks_faultsWithCause (hs : s.status ≠ .failed) : FaultsWithCause s .hMasks (stepMasks s) := by
  have mask : ReadsOn s .hMasks rdu32 := cursorRead_readsOn rfl 4 _
  cases h : hasMasks s.bitsPerPixel with
  | true =>
    rw [stepMasks_of_hasMasks h]
    exact FaultsReading.begin (op := readMasks) (.bind mask fun r =>
      .bind (maskWrite_readsOn fun md => { md with maskR := some r }) fun _ => .bind mask fun g =>
      .bind (maskWrite_readsOn fun md => { md with maskG := some g }) fun _ => .bind mask fun _ =>
      .ofStatus hs fun _ _ h => nomatch h)
  | false => rw [stepMasks_of_not_hasMasks h]; exact fun h => nomatch h

/-! ### The decoder control steps -/

theorem stepChkcomp_faultsWithCause (hs : s.status ≠ .failed) : FaultsWithCause s .dChkcomp (stepChkcomp s) := by
  by_cases h : compressionSupported s.compression = true
  · rw [stepChkcomp_ok h]; exact hs
  · rw [stepChkcomp_error h]; exact ⟨atFault_begin nofun, .compression h⟩

theorem stepChkdepth_faultsWithCause (hs : s.status ≠ .failed) : FaultsWithCause s .dChkdepth (stepChkdepth s) := by
  by_cases h : (formatOfDepth s.bitsPerPixel).isSome = true
  · rw [stepChkdepth_ok h]; exact hs
  · rw [stepChkdepth_error h]; exact ⟨atFault_begin nofun, .depth h⟩

theorem stepSeek_faultsWithCause (hs : s.status ≠ .failed) : FaultsWithCause s .dSeek (stepSeek s) := by
  by_cases h : s.dataOffset.toNat ≤ s.buf.len
  · rw [stepSeek_ok h]; exact hs
  · have hbeyond := Nat.lt_of_not_le h
    rw [stepSeek_error hbeyond]; exact ⟨atFault_begin nofun, .missing rfl hbeyond⟩

theorem leaveRow_status (s : State) : (leaveRow s).status = s.status := by
  unfold leaveRow
  split <;> rfl

theorem stepRowend_faultsWithCause (hs : s.status ≠ .failed) : FaultsWithCause s .dRowend (stepRowend s) := by
  by_cases h : s.pos + padBytes s.rowBytes ≤ s.buf.len
  · rw [stepRowend_ok h]
    exact ne_of_eq_of_ne (leaveRow_status _) hs
  · have hbeyond := Nat.lt_of_not_le h
    rw [stepRowend_error hbeyond]; exact ⟨atFault_begin nofun, .missing rfl hbeyond⟩

theorem storePixel_status {p : Rgba8} (h : storePixel p s = .next t) : t.status = s.status := by
  unfold storePixel at h
  split at h
  · cases h
  · split at h <;> cases h
    rfl

theorem execDPixel_faultTaken (hs : s.status ≠ .failed) : NextIn (FaultTaken s .dPixel) (execDPixel s) := by
  cases hf : formatOfDepth s.bitsPerPixel with
  | none => simp only [execDPixel, hf]; trivial
  | some f =>
    have h : FaultsWithCause s .dPixel (pixelOp f s) := pixelOp_faultsWithCause (.inr rfl) hs
    cases hr : pixelOp f s with
    | ok p s' =>
      rw [hr] at h
      simp only [execDPixel, hf, hr]
      exact nextIn_of_eq_next fun t ht => faultTaken_of_status (storePixel_status ht ▸ h)
    | error r s' =>
      rw [hr] at h
      rw [execDPixel_error hf hr]
      exact fun _ => ⟨r, s', rfl, h⟩

/-! ### Every operation -/

theorem exec_cursor_faultTaken (hs : s.status ≠ .failed) (hcursor : isCursor i = true)
    (hi : accessesBuffer i = true) (hstep : faultStep i s = s.phase) : NextIn (FaultTaken s i) (exec i s) :=
  nextIn_of_eq_next fun t h ht => by
    obtain ⟨hlt, rfl⟩ := (exec_eq_next_cursorEnd hcursor h).of_failed hs ht
    exact ⟨⟨.outOfBounds, cursorTarget i s⟩, s, by rw [hstep]; rfl, atFault_begin nofun, .missing hi hlt⟩

theorem faultTaken_of_answered {o : Out} (hs : s.status ≠ .failed) (h : ∀ t, o = .next t → ∃ r, t = answered r s) :
    NextIn (FaultTaken s i) o :=
  nextIn_of_eq_next fun t ht => by
    obtain ⟨r, rfl⟩ := h t ht
    exact faultTaken_of_status hs

/-- An operation that ends in `FAILED`, not begun there, has raised a fault with cause, taken in its step (R280). -/
theorem exec_faultTaken (i : Instr) (hs : s.status ≠ .failed) : NextIn (FaultTaken s i) (exec i s) := by
  cases i with
  | rdu8 | rdu16 | rdu32 | rdstr n | seek p | skip n => exact exec_cursor_faultTaken hs rfl rfl rfl
  | tell => exact faultTaken_of_status hs
  | hSig => exact runStep_faultTaken (stepSig_faultsWithCause hs) rfl
  | hFilesize | hReserved | hDataoffset | hDibsize | hWidth | hHeight | hPlanes | hBpp | hCompression | hDatasize
  | hResh | hResv | hColors | hImpcolors =>
    exact runStep_faultTaken (fieldStep_faultsWithCause rfl hs fun _ _ h => h) rfl
  | hPalette => exact runStep_faultTaken (stepPalette_faultsWithCause hs) rfl
  | hMasks => exact runStep_faultTaken (stepMasks_faultsWithCause hs) rfl
  | dChkcomp => exact runStep_faultTaken (stepChkcomp_faultsWithCause hs) rfl
  | dChkdepth => exact runStep_faultTaken (stepChkdepth_faultsWithCause hs) rfl
  | dSeek => exact runStep_faultTaken (stepSeek_faultsWithCause hs) rfl
  | dAlloc =>
    exact nextIn_of_eq_next fun t h => faultTaken_of_status (by rwa [execDAlloc_eq_next h, allocOutput_status])
  | dRowstart => exact faultTaken_of_status hs
  | dPixel => exact execDPixel_faultTaken hs
  | dRowend => exact runStep_faultTaken (stepRowend_faultsWithCause hs) rfl
  | dFinish => exact faultTaken_of_status nofun
  | px1 => exact runUnit_faultTaken (pixelOp_faultsWithCause (f := .p1) (.inl rfl) hs) rfl
  | px2 => exact runUnit_faultTaken (pixelOp_faultsWithCause (f := .p2) (.inl rfl) hs) rfl
  | px4 => exact runUnit_faultTaken (pixelOp_faultsWithCause (f := .p4) (.inl rfl) hs) rfl
  | px8 => exact runUnit_faultTaken (pixelOp_faultsWithCause (f := .p8) (.inl rfl) hs) rfl
  | px16 => exact runUnit_faultTaken (pixelOp_faultsWithCause (f := .p16) (.inl rfl) hs) rfl
  | px24 => exact runUnit_faultTaken (pixelOp_faultsWithCause (f := .p24) (.inl rfl) hs) rfl
  | px32 => exact runUnit_faultTaken (pixelOp_faultsWithCause (f := .p32) (.inl rfl) hs) rfl
  | unpack d => exact runUnit_faultTaken (unpack_faultsWithCause rfl hs d) rfl
  | lookup n =>
    exact runUnit_faultTaken
      (lookup_faultsWithCause (by simp [LooksUp]) hs (atFault_fetched (n := 0) (Nat.zero_le 1) (.inl rfl)) n) rfl
  | reset => exact nextIn_of_eq_next fun t h => by rw [(execReset_eq_next h).2]; exact faultTaken_of_status nofun
  | start => exact nextIn_of_eq_next fun t h => by rw [(execStart_eq_next h).2]; exact faultTaken_of_status nofun
  | rdreg n => exact faultTaken_of_answered hs fun t h => execRdreg_eq_next h
  | rdpal n => exact faultTaken_of_answered hs fun t h => execRdpal_eq_next h
  | rdout n => exact faultTaken_of_answered hs fun t h => execRdout_eq_next h
  | reservedCc7 | reservedHc5 | reservedHc6 | reservedHc7 => trivial

theorem exec_eq_next_failed (hs : s.status ≠ .failed) (h : exec i s = .next t) (ht : t.status = .failed) :
    ∃ r s', t = takeFault r (faultStep i s) s' ∧ s.AtFault i r.kind s' ∧ FaultCause s i r := by
  have hfault := exec_faultTaken i hs
  rw [h] at hfault
  exact hfault ht

/-! ### The registers that a check refuses (R191, R192) -/

theorem compression_of_unsupported (h : ¬ compressionSupported s.compression = true) :
    s.md.compression ≠ some 0 ∧ s.md.compression ≠ some 3 := by
  refine ⟨fun h0 => h ?_, fun h3 => h ?_⟩
  · rw [compression_of_some h0]; rfl
  · rw [compression_of_some h3]; rfl

theorem depth_of_unsupported (h : ¬ (formatOfDepth s.bitsPerPixel).isSome = true) :
    ∀ bpp ∈ [1, 2, 4, 8, 16, 24, 32], s.md.bitsPerPixel ≠ some bpp := by
  have hsupported : ∀ bpp ∈ ([1, 2, 4, 8, 16, 24, 32] : List U16), (formatOfDepth bpp).isSome = true :=
    List.all_eq_true.mp (by decide)
  intro bpp hmem hbpp
  rw [bitsPerPixel_of_some hbpp] at h
  exact h (hsupported bpp hmem)

end Sys2Proof.Machine

namespace Sys2Proof.Statements
open Sys2Proof.Machine

/-- Settles O41: a fault is taken in the state in which it is raised, and that state is told by `State.AtFault`. -/
theorem faultEntryRecordsTheFault : Obligations.FaultEntryRecordsTheFault := by
  intro i s t hs hexec ht
  obtain ⟨r, s', rfl, hat, -⟩ := exec_eq_next_failed hs hexec ht
  exact ⟨_, rfl, rfl, rfl, rfl, hat.same State.buf, hat.same State.mdValid, hat.same State.y, hat.same State.x,
    hat.same State.out, hat.same State.prof, hat.same State.source, hat.same State.inputs, hat.same State.unitCmd,
    hat.same State.opResult, hat.same State.hostResult, hat.same State.draws, hat.forward, hat.fields, hat.masks,
    hat.palette, hat.unit, hat.fetched⟩

/-- Settles O42: each kind of fault has one cause. -/
theorem eachFaultHasItsOperations : Obligations.EachFaultHasItsOperations := by
  intro i s t e hs hexec ht he
  obtain ⟨r, s', rfl, -, hcause⟩ := exec_eq_next_failed hs hexec ht
  cases he
  cases hcause with
  | missing hi h => exact ⟨nofun, nofun, nofun, fun _ => ⟨hi, h⟩, nofun⟩
  | signature hlen h => exact ⟨fun _ => ⟨rfl, hlen, h, rfl⟩, nofun, nofun, nofun, nofun⟩
  | compression h =>
    obtain ⟨h0, h3⟩ := compression_of_unsupported h
    exact ⟨nofun, fun _ => ⟨rfl, h0, h3, fun c hc => congrArg BitVec.toNat (compression_of_some hc)⟩, nofun, nofun,
      nofun⟩
  | depth h =>
    exact ⟨nofun, nofun, fun _ => ⟨rfl, depth_of_unsupported h, fun bpp hbpp =>
      congrArg BitVec.toNat (bitsPerPixel_of_some hbpp)⟩, nofun, nofun⟩
  | index hi h => exact ⟨nofun, nofun, nofun, nofun, fun _ => ⟨hi, h⟩⟩

end Sys2Proof.Statements
end

section
/-! The length of a run (R310, R203): what is left in each phase, and that a step of a run leaves one step fewer
unless it faults. -/
namespace Sys2Proof.Machine

variable {s t : State} {m : Memory} {code : BitVec 5} {i : Instr} {n : Nat}

/-! ### The steps left in each phase -/

/-- From H_SIG to D_ALLOC the steps up to D_ALLOC, all the rows, and D_FINISH. -/
theorem stepsLeft_beforeRows (hphase : s.phase = code) (hcode : 1 ≤ code.toNat ∧ code.toNat ≤ 21) :
    s.stepsLeft = 22 - code.toNat + s.buf.height * (s.buf.width + 2) + 1 := by
  subst hphase
  rw [State.stepsLeft, if_neg (by omega), if_pos hcode.2]

theorem stepsLeft_dAlloc (hphase : s.phase = Phase.dAlloc) :
    s.stepsLeft = s.buf.height * (s.buf.width + 2) + 2 := by
  rw [stepsLeft_beforeRows hphase (by decide)]
  exact congrArg Nat.succ (Nat.add_comm 1 _)

theorem stepsLeft_dRowstart (hphase : s.phase = Phase.dRowstart) :
    s.stepsLeft = s.row.toNat * (s.buf.width + 2) + (s.buf.width + 2) + 1 := by
  rw [State.stepsLeft, hphase]; rfl

theorem stepsLeft_dPixel (hphase : s.phase = Phase.dPixel) :
    s.stepsLeft = s.row.toNat * (s.buf.width + 2) + (s.buf.width - s.column.toNat) + 2 := by
  rw [State.stepsLeft, hphase]; rfl

theorem stepsLeft_dRowend (hphase : s.phase = Phase.dRowend) :
    s.stepsLeft = s.row.toNat * (s.buf.width + 2) + 2 := by
  rw [State.stepsLeft, hphase]; rfl

theorem stepsLeft_dFinish (hphase : s.phase = Phase.dFinish) : s.stepsLeft = 1 := by
  rw [State.stepsLeft, hphase]; rfl

theorem stepsLeft_done (hphase : s.phase = Phase.done) : s.stepsLeft = 0 := by
  rw [State.stepsLeft, hphase]; rfl

/-- The step in progress is one of those left. -/
theorem stepsLeft_pos (h : 1 ≤ s.phase.toNat ∧ s.phase.toNat ≤ 25) : 0 < s.stepsLeft := by
  rw [State.stepsLeft, if_neg (by omega)]
  split_ifs <;> exact Nat.succ_pos _

/-- As D_ROWSTART is entered for output row `v - 1`, there are `v` rows to go (R195). -/
theorem stepsLeft_rows {v : U32} (hphase : t.phase = Phase.dRowstart) (hrow : t.y = some (v - 1)) (hv : v ≠ 0) :
    t.stepsLeft = v.toNat * (t.buf.width + 2) + 1 := by
  have hpos : 0 < v.toNat := Nat.pos_of_ne_zero (mt (eq_zero_iff_toNat v).mpr hv)
  rw [stepsLeft_dRowstart hphase, row_of_some hrow, sub_one_toNat hpos, ← Nat.succ_mul, Nat.succ_eq_add_one,
    Nat.sub_add_cancel hpos]

/-! ### One step fewer -/

/-- Either the step that has led here faulted, or it was one of the `n` that were left. -/
def State.OneFewer (n : Nat) (t : State) : Prop := t.status ≠ .failed → n = t.stepsLeft + 1

theorem takeFault_oneFewer (r : Raise) (code : BitVec 5) (s : State) : (takeFault r code s).OneFewer n :=
  fun h => absurd rfl h

/-- Before the rows a step leads to the next phase code. -/
theorem nextPhase_oneFewer (hcode : 1 ≤ code.toNat ∧ code.toNat ≤ 20) (hphase : t.phase = code + 1) :
    t.OneFewer (22 - code.toNat + t.buf.height * (t.buf.width + 2) + 1) := by
  have hnext : (code + 1).toNat = code.toNat + 1 := by bv_omega
  intro _
  rw [stepsLeft_beforeRows hphase (by omega), hnext]
  omega

theorem headerMoves_oneFewer (hcode : 1 ≤ code.toNat) :
    HeaderMoves (fun t => t.buf = m) (State.OneFewer (22 - code.toNat + m.height * (m.width + 2) + 1)) code where
  fault r t _ := takeFault_oneFewer r code t
  next hle t ht := ht ▸ nextPhase_oneFewer (t := { t with phase := code + 1 }) ⟨hcode, by omega⟩ rfl
  endOfParse hmasks t ht := by
    subst hmasks
    exact ht ▸ nextPhase_oneFewer (t := { t with mdValid := true, status := .decoding, phase := Phase.dChkcomp })
      ⟨hcode, by decide⟩ rfl

theorem exec_header_oneFewer (hi : encode i = some (.ph code)) (hs : s.AtHeader code) :
    NextIn (State.OneFewer s.stepsLeft) (exec i s) := by
  obtain ⟨hlo, hhi⟩ := hs.range
  rw [stepsLeft_beforeRows hs.phase ⟨hlo, by omega⟩]
  exact exec_header (P := fun t => t.buf = s.buf) (fun _ => Iff.rfl) hi hhi rfl (headerMoves_oneFewer hlo)

/-! ### The decoder steps -/

/-- The two checks and D_SEEK: each faults or goes to the next phase code, in the same buffer (R191 to R193). -/
theorem beforeAlloc_oneFewer {op : Op Unit} (hs : s.AtDecode code) (hcode : code.toNat ≤ 20)
    (hop : ∀ {Q : State → Prop}, (∀ t : State, t.buf = s.buf → Q { t with phase := code + 1 }) →
      Leads (fun t => t.buf = s.buf) Q op) : (runStep code op s).OneFewer s.stepsLeft := by
  obtain ⟨hlo, _⟩ := hs.range
  rw [stepsLeft_beforeRows hs.phase ⟨by omega, by omega⟩]
  refine (hop fun t ht => ?_).runStep rfl fun r t _ => takeFault_oneFewer r code t
  exact ht ▸ nextPhase_oneFewer (t := { t with phase := code + 1 }) ⟨by omega, hcode⟩ rfl

theorem allocOutput_oneFewer (hs : s.AtDecode Phase.dAlloc) : (allocOutput s).OneFewer s.stepsLeft := by
  intro _
  rw [stepsLeft_dAlloc hs.phase, ← hs.height_eq]
  by_cases h0 : s.height = 0
  · rw [allocOutput_noRows h0, stepsLeft_dFinish rfl, h0]
    simp
  · rw [allocOutput_rows h0, stepsLeft_rows rfl rfl h0]

theorem startRow_oneFewer (hs : s.AtDecode Phase.dRowstart) : (startRow s).OneFewer s.stepsLeft := by
  have hrow : (startRow s).row = s.row := rfl
  have hcolumn : (startRow s).column = 0 := column_of_some rfl
  intro _
  rw [stepsLeft_dRowstart hs.phase]
  by_cases h0 : s.width = 0
  · have hwidth : s.buf.width = 0 := by rw [← hs.width_eq, h0]; rfl
    rw [stepsLeft_dRowend ((startRow_phase s).trans (if_pos h0)), hrow, startRow_buf, hwidth]
  · rw [stepsLeft_dPixel ((startRow_phase s).trans (if_neg h0)), hrow, hcolumn, startRow_buf]
    rfl

theorem execDPixel_oneFewer (hs : s.AtDecode Phase.dPixel) : NextIn (State.OneFewer s.stepsLeft) (execDPixel s) := by
  obtain ⟨f, hf⟩ := hs.format (by decide)
  obtain ⟨y, x, hcolumn, hx⟩ := hs.place f hf
  have hends := execDPixel_ends hs hf hcolumn hx
  generalize execDPixel s = o at hends ⊢
  cases hends with
  | fault r s' => exact takeFault_oneFewer r _ s'
  | stored t hbuf _ _ hphase hnext =>
    intro _
    rw [stepsLeft_dPixel hs.phase, row_of_some hcolumn.row, column_of_some hcolumn.column]
    by_cases hlast : x.toNat + 1 < s.buf.width
    · rw [stepsLeft_dPixel (hphase.trans (if_pos hlast)), row_of_some hnext.row, column_of_some hnext.column,
        column_succ hx, hbuf]
      omega
    · rw [stepsLeft_dRowend (hphase.trans (if_neg hlast)), row_of_some hnext.row, hbuf]
      omega

theorem stepRowend_oneFewer (hs : s.AtDecode Phase.dRowend) :
    (runStep Phase.dRowend stepRowend s).OneFewer s.stepsLeft := by
  by_cases hin : s.pos + padBytes s.rowBytes ≤ s.buf.len
  · rw [runStep_ok _ (stepRowend_ok hin)]
    intro _
    rw [stepsLeft_dRowend hs.phase]
    by_cases h0 : s.row = 0
    · rw [leaveRow_lastRow (s := { s with pos := _, bitsRemaining := 0 }) h0, stepsLeft_dFinish rfl, h0]
      simp
    · rw [leaveRow_nextRow (s := { s with pos := _, bitsRemaining := 0 }) h0, stepsLeft_rows rfl rfl h0]
  · rw [runStep_error _ (stepRowend_error (Nat.lt_of_not_le hin))]
    exact takeFault_oneFewer _ _ s

theorem finish_oneFewer (hs : s.AtDecode Phase.dFinish) : (finish s).OneFewer s.stepsLeft := fun _ => by
  rw [stepsLeft_dFinish hs.phase, stepsLeft_done (finish_phase s)]

theorem exec_decoder_oneFewer (hi : encode i = some (.ph code)) (hs : s.AtDecode code) :
    NextIn (State.OneFewer s.stepsLeft) (exec i s) := by
  cases i with
  | dChkcomp => cases hi; exact beforeAlloc_oneFewer hs (by decide) stepChkcomp_leads
  | dChkdepth => cases hi; exact beforeAlloc_oneFewer hs (by decide) stepChkdepth_leads
  | dSeek => cases hi; exact beforeAlloc_oneFewer hs (by decide) (stepSeek_leads fun _ => Iff.rfl)
  | dAlloc => cases hi; exact nextIn_of_eq_next fun t h => execDAlloc_eq_next h ▸ allocOutput_oneFewer hs
  | dRowstart => cases hi; exact startRow_oneFewer hs
  | dPixel => cases hi; exact execDPixel_oneFewer hs
  | dRowend => cases hi; exact stepRowend_oneFewer hs
  | dFinish => cases hi; exact finish_oneFewer hs
  | hSig | hFilesize | hReserved | hDataoffset | hDibsize | hWidth | hHeight | hPlanes | hBpp | hCompression
  | hDatasize | hResh | hResv | hColors | hImpcolors | hPalette | hMasks =>
    cases hi; exact absurd hs.range.1 (by decide)
  | _ => simp [encode] at hi

/-! ### A step of a run -/

theorem step_oneFewer (hd : s.Decoded) (hrun : s.status = .parsing ∨ s.status = .decoding) (h : step s = .next t) :
    t.OneFewer s.stepsLeft := by
  obtain ⟨i, hdecode, hexec⟩ := step_running hd.parsed.coherent hrun h
  have hi := encode_of_decodePH hdecode
  have hnext : NextIn (State.OneFewer s.stepsLeft) (exec i s) := by
    rcases hrun with hstatus | hstatus
    · exact exec_header_oneFewer hi (hd.atHeader hstatus)
    · exact exec_decoder_oneFewer hi (hd.atDecode hstatus)
  rwa [hexec] at hnext

end Sys2Proof.Machine

namespace Sys2Proof.Statements
open Sys2Proof.Machine

/-- Settles O56: before the rows the phase codes count the steps, in the rows `y` and `x` do. -/
theorem everyStepBringsTheEndNearer : Obligations.EveryStepBringsTheEndNearer := by
  refine ⟨fun s hphase => stepsLeft_beforeRows hphase (by decide), fun s t hd hrun hstep hfailed => ?_,
    fun s hd hrun => stepsLeft_pos (range_of_running hd.parsed.coherent.status hrun)⟩
  exact ⟨step_running_buf hd.parsed.coherent hrun hstep, step_oneFewer hd hrun hstep hfailed⟩

end Sys2Proof.Statements
end

section
/-! The state after reset (R301): every memory empty, and the registers those of a session not yet begun. -/
namespace Sys2Proof.Machine

theorem reset_canonical : State.reset.Canonical where
  buf := rfl
  source := rfl
  inputs := rfl
  pal _ h := nomatch h
  out _ h := nomatch h
  position := Nat.le_refl 0

/-- Before any step of a session nothing is read. -/
theorem reset_readsBuffer : State.reset.ReadsBuffer where
  read := .unwritten _ (p := 0) (by decide)
  begins := ⟨fun hlo => absurd hlo (Nat.not_succ_le_zero 0), fun _ => rfl, fun _ => rfl⟩
  inBounds := Nat.le_refl 0

/-- Nor is anything checked, and the phase `IDLE` is no place of the decode. -/
theorem reset_decodesBuffer : State.reset.DecodesBuffer where
  checks := .unchecked (p := 0) (by decide)
  place _ _ := trivial

end Sys2Proof.Machine

namespace Sys2Proof.Statements
open Sys2Proof.Machine

/-- Settles O48: reset is what RESET makes of a state, hence coherent, and no field of a buffer has been read. -/
theorem resetStateIsConsistent : Obligations.ResetStateIsConsistent :=
  have hcoherent : State.reset.Coherent := resetRegisters_coherent (s := State.reset) rfl
  ⟨reset_canonical, reset_decodesBuffer.decoded (reset_readsBuffer.parsed hcoherent)⟩

end Sys2Proof.Statements
end
